-- ==== Sys2Proof/Word.lean ====
section
/-! DEFINITION. The bit-vector types of the core. Spec: 00_scope.md R7 (every value is an unsigned
number of a fixed width), 10_state.md R11 (the widths). -/

namespace Sys2Proof

/-- One byte: a character code, an element of `pm` and of `H` (R11). -/
abbrev Byte := BitVec 8

/-- One hexadecimal digit as a value 0 to 15, an element of `nib` (R9, R11). -/
abbrev Nibble := BitVec 4

/-- A 16-bit value: the CRC register and the two diagnostic numbers (R11). -/
abbrev Word16 := BitVec 16

/-- One host token `tok[9:0]` (R60). -/
abbrev TokenWord := BitVec 10

/-- The 3-bit phase code that selects a micro-operation (R12, R66). -/
abbrev PhaseWord := BitVec 3

/-- Sixteen bytes, byte 0 first: a Chaining State, a cipher key, a message block, a ciphertext
(20_memory.md R50: never treated as one 128-bit integer). -/
abbrev Block := Vector Byte 16

end Sys2Proof
end

