-- ==== Sys2Proof/Machine/Params.lean ====
section
/-! DEFINITION. The parameters of the core that have a value, and the phase and status codes. Spec:
00_scope.md R6, 10_state.md R12, 30_encoding.md R67. -/

namespace Sys2Proof.Machine

/-- Phase codes (R12). -/
abbrev Phase.idle : PhaseWord := 0#3
abbrev Phase.collect : PhaseWord := 1#3
abbrev Phase.check : PhaseWord := 2#3
abbrev Phase.pad : PhaseWord := 3#3
abbrev Phase.hash : PhaseWord := 4#3
abbrev Phase.done : PhaseWord := 5#3

/-- Status codes (R67). -/
abbrev Status.none : BitVec 3 := 0#3
abbrev Status.ok : BitVec 3 := 1#3
abbrev Status.invalidLength : BitVec 3 := 2#3
abbrev Status.invalidHex : BitVec 3 := 3#3
abbrev Status.checksumMismatch : BitVec 3 := 4#3

/-- `NMAX`: the digit buffer holds 36 digits, so the last count at which one more fits is 35 (R6, R82). -/
abbrev nLast : BitVec 6 := 35#6

/-- `NSAT`: the count that stands for "more than 36" (R6, R83). -/
abbrev nSat : BitVec 6 := 37#6

/-- CRC polynomial in reversed form, start value and final XOR (R6, R100). -/
abbrev crcPoly : Word16 := 0x8408#16
abbrev crcStart : Word16 := 0xFFFF#16
abbrev crcXorOut : Word16 := 0xFFFF#16

/-- The padding marker byte (R6, R122). -/
abbrev padMarker : Byte := 0x80#8

/-- Sixteen zero bytes: the Chaining State's start value (R6, R150). -/
def zeroBlock : Block := Vector.replicate 16 0x00#8

end Sys2Proof.Machine
end

