-- ==== Sys2Proof/Machine/State.lean ====
section
/-! DEFINITION. The state of one core, the reasons a step can stop, and the reset state. Spec:
10_state.md R11 (the complete architectural state), R23 (the input ports), R30 (reset values). -/

namespace Sys2Proof.Machine

/-- What the input ports carry while one step is taken: `rst`, `tok_valid`, `tok[9:0]` (R23). `clk` has no
place: a model has no clock (R65, R199; log 1). -/
structure HostCycle where
  rst : Bool
  tokValid : Bool
  tok : TokenWord
  deriving DecidableEq, Repr

/-- The registers of R11, and the model's own field `inputs`. -/
structure State where
  /-- Controller phase (R12). -/
  ph : PhaseWord
  /-- Digit counter, saturated at 37 (R13). -/
  n : BitVec 6
  /-- Digit buffer, in arrival order (R14). -/
  nib : Vector Nibble 36
  /-- Secret length in bytes (R15). -/
  L : BitVec 5
  /-- CRC register (R16). -/
  crc : Word16
  /-- Padded Message buffer (R17). -/
  pm : Vector Byte 32
  /-- Number of blocks (R18). -/
  nblk : BitVec 2
  /-- Index of the next block to compress (R18). -/
  blk : BitVec 2
  /-- Chaining State (R19). -/
  H : Block
  /-- Status (R20). -/
  st : BitVec 3
  /-- Given checksum as a number (R21). -/
  cg : Word16
  /-- Computed checksum as a number (R21). -/
  cc : Word16
  /-- Protocol-error flag (R22). -/
  perr : Bool
  /-- The model's own: what the host will put on the input ports, one entry for each step to come, the next
  first. When it runs out the host passes nothing (log 1). -/
  inputs : List HostCycle
  deriving DecidableEq, Repr

/-- Why the machine stops. -/
inductive Fault where
  /-- Raised by `step` when `ph` is 6 or 7 and `rst` is not asserted: no step is enabled (R12, U2). Safe: the
  hardware has no successor state either, and no run from reset gets there (R29 (a)). -/
  | stuckPhase
  deriving DecidableEq, Repr

/-- Why a meaning says nothing. -/
inductive Refusal where
  /-- An instruction of this mnemonic has no meaning yet. No arm of `exec` answers so. Safe. -/
  | notModelled (mnemonic : String)
  /-- Raised by U.CHECK, U.PAD, U.HASH in a phase that does not select them: not enabled there (R10, R66).
  Safe: `step` never asks for it. -/
  | microOpNotEnabled
  /-- Raised by U.PAD when `L` is not 6, 8, 12 or 16: "defined only for the four legal `L`", treatment refuse
  (U10). Safe: unreachable (R29 (f)). -/
  | padIllegalLength
  /-- Raised by U.HASH when `blk ≥ nblk`: treatment refuse (U11). Safe: unreachable (R29 (g)). -/
  | hashNoBlockLeft
  /-- Raised by U.HASH when `nblk` = 3 and `blk` = 2: the block would lie outside `pm` (log 4). Safe:
  unreachable, `nblk` is 0, 1 or 2 (R11). -/
  | hashBlockOutsideBuffer
  deriving DecidableEq, Repr

/-- R30: the value of every register after reset. The host has offered nothing yet. -/
def State.reset : State where
  ph := Phase.idle
  n := 0#6
  nib := Vector.replicate 36 0#4
  L := 0#5
  crc := crcStart
  pm := Vector.replicate 32 0x00#8
  nblk := 0#2
  blk := 0#2
  H := zeroBlock
  st := Status.none
  cg := 0x0000#16
  cc := 0x0000#16
  perr := false
  inputs := []

end Sys2Proof.Machine
end

