-- ==== Sys2Proof/Machine/Flags.lean ====
section
/-! DEFINITION. Flag computations. The core has no condition codes (10_state.md R27); its one flag is
`perr` (R22), set here and cleared by START and reset. -/

namespace Sys2Proof.Machine

/-- `perr <- 1`, and nothing else (R85, R87, R88). -/
def State.setPerr (s : State) : State := { s with perr := true }

end Sys2Proof.Machine
end

