-- ==== Sys2Proof/Machine/Operands.lean ====
section
/-! DEFINITION. Operand forms: the character class of CHAR, the byte view of the digit buffer, and where
the secret and the checksum lie in it. Spec: 30_encoding.md R64; 20_memory.md R42, R43;
41_crc16_validator.md R108, R110. -/

namespace Sys2Proof.Machine

/-- R64: a character code to a digit value, or `none` for a skipped character. -/
def hexval (c : Byte) : Option Nibble :=
  if 0x30#8 ≤ c ∧ c ≤ 0x39#8 then some ((c - 0x30#8).setWidth 4)
  else if 0x41#8 ≤ c ∧ c ≤ 0x46#8 then some ((c - 0x37#8).setWidth 4)
  else if 0x61#8 ≤ c ∧ c ≤ 0x66#8 then some ((c - 0x57#8).setWidth 4)
  else none

/-- `nib[i]`. Every rule reads it at `i < 36`; the value past the end is never used (R52). -/
def nibAt (nib : Vector Nibble 36) (i : Nat) : Nibble := nib[i]?.getD 0#4

/-- R42, the byte view: `byte[i] = nib[2i] ‖ nib[2i+1]`, first digit high. -/
def byteAt (nib : Vector Nibble 36) (i : Nat) : Byte := nibAt nib (2 * i) ++ nibAt nib (2 * i + 1)

/-- R108: the legal digit counts. -/
def legalCount (n : BitVec 6) : Bool := n == 16#6 || n == 20#6 || n == 28#6 || n == 36#6

/-- R110: `n/2 - 2`, 6 bits to 5 (R33). -/
def secretLen (n : BitVec 6) : BitVec 5 := ((n >>> 1) - 2#6).setWidth 5

/-- The legal secret lengths (R6). -/
def legalLen (L : BitVec 5) : Bool := L == 6#5 || L == 8#5 || L == 12#5 || L == 16#5

/-- R43, R110: the Decoded Bytes `d = byte[0..L-1]`. -/
def secretOf (nib : Vector Nibble 36) (L : Nat) : List Byte := (List.range L).map (byteAt nib)

end Sys2Proof.Machine
end

