-- ==== Sys2Proof/Machine/Ports.lean ====
section
/-! DEFINITION. The output ports, each a function of the registers alone. Spec: 10_state.md R23, R24,
20_memory.md R51. -/

namespace Sys2Proof.Machine

/-- `ready`: `ph` is IDLE, COLLECT or DONE (R23). -/
def State.ready (s : State) : Bool :=
  s.ph == Phase.idle || s.ph == Phase.collect || s.ph == Phase.done

/-- `done`: `ph` = DONE (R23). -/
def State.done (s : State) : Bool := s.ph == Phase.done

/-- `status`: `st` (R23). -/
def State.status (s : State) : BitVec 3 := s.st

/-- Port `perr` (R23). -/
def State.perrPort (s : State) : Bool := s.perr

/-- `key[0..15]`: the Chaining State if `st` = OK, else sixteen zero bytes (R23, R24). -/
def State.key (s : State) : Block := if s.st = Status.ok then s.H else zeroBlock

/-- `crc_given`: `cg` (R23). -/
def State.crcGiven (s : State) : Word16 := s.cg

/-- `crc_calc`: `cc` (R23). -/
def State.crcCalc (s : State) : Word16 := s.cc

/-- The key as one 128-bit vector, `key[0]` the most significant byte (R51). -/
def flattenBlock (b : Block) : BitVec 128 :=
  b.toList.foldl (fun acc x => (acc <<< 8) ||| x.setWidth 128) 0#128

end Sys2Proof.Machine
end

