-- ==== Sys2Proof/Machine/Ops.lean ====
section
/-! DEFINITION. The shared operations: access to the arrays, moving the phase, storing a digit, raising an
error and leaving it, reset, and when a step is enabled. Spec: 00_scope.md R8; 10_state.md R10, R12;
20_memory.md R44; 60_exceptions.md R174, R177; 70_reset_and_hazards.md R190. -/

namespace Sys2Proof.Machine

/-! ## The buffer `pm` -/

/-- `pm[a]`. Every rule reads it at `a < 32`; the value past the end is never used. -/
def pmAt (pm : Vector Byte 32) (a : Nat) : Byte := pm[a]?.getD 0x00#8

/-- `MemRead(pm, a, 16)` (R44): the block that starts at offset `a`. -/
def memReadBlock (pm : Vector Byte 32) (a : Nat) : Block := Vector.ofFn fun j => pmAt pm (a + j.val)

/-- `MemWrite(pm, a, k, v)` with `k` the length of `v` (R44): `v[j]` goes to `pm[a+j]`. -/
def memWrite (pm : Vector Byte 32) (a : Nat) (v : List Byte) : Vector Byte 32 :=
  Vector.ofFn fun i => if a ≤ i.val ∧ i.val < a + v.length then v.getD (i.val - a) 0x00#8 else pm[i]

/-- `pm[i] <- 0x00` for every `i` from `a` up (R125). -/
def clearFrom (pm : Vector Byte 32) (a : Nat) : Vector Byte 32 :=
  Vector.ofFn fun i => if a ≤ i.val then 0x00#8 else pm[i]

/-- Byte-by-byte XOR of two 16-byte values; the lanes are independent (R33, R151). -/
def xorBlock (a b : Block) : Block := Vector.ofFn fun i => a[i] ^^^ b[i]

/-! ## Registers -/

/-- `ph <- p`: what takes the place of a jump (R8, R12). -/
def State.goPhase (s : State) (p : PhaseWord) : State := { s with ph := p }

/-- `nib[n] <- v ; n <- n + 1` (R82). -/
def State.storeDigit (s : State) (v : Nibble) : State :=
  { s with nib := s.nib.setIfInBounds s.n.toNat v, n := s.n + 1#6 }

/-- `n <- 37` (R83). -/
def State.saturate (s : State) : State := { s with n := nSat }

/-! ## Errors -/

/-- The error classes and the values they record (R170). -/
inductive ErrorClass where
  | invalidLength
  | invalidHex
  | checksumMismatch (cg cc : Word16)
  deriving DecidableEq, Repr

/-- `code(<Error>)` (R67, R170). -/
def errorCode : ErrorClass → BitVec 3
  | .invalidLength => Status.invalidLength
  | .invalidHex => Status.invalidHex
  | .checksumMismatch _ _ => Status.checksumMismatch

/-- R174, taking an exception: `st <- code`, for ChecksumMismatch `cg` and `cc`, `ph <- DONE`. Nothing is
saved, there is no handler and no vector. -/
def State.raiseError (s : State) (e : ErrorClass) : State :=
  match e with
  | .invalidLength => { s with st := errorCode e, ph := Phase.done }
  | .invalidHex => { s with st := errorCode e, ph := Phase.done }
  | .checksumMismatch cg cc => { s with st := errorCode e, cg := cg, cc := cc, ph := Phase.done }

/-- R177 and R81: there is no return instruction; an error state is left by START, which writes every
register. `inputs` is not a register. -/
def State.beginCall (s : State) : State where
  ph := Phase.collect
  n := 0#6
  nib := Vector.replicate 36 0#4
  L := 0#5
  crc := crcStart
  pm := Vector.replicate 32 0x00#8
  nblk := 0#2
  blk := 0#2
  H := zeroBlock
  st := Status.none
  cg := 0x0000#16
  cc := 0x0000#16
  perr := false
  inputs := s.inputs

/-- R190: the reset event, every register at its reset value whatever the state was. -/
def State.resetEvent (s : State) : State := { State.reset with inputs := s.inputs }

/-! ## The input ports and when a step is enabled -/

/-- No reset, no token (R65: a cycle with `tok_valid` = 0 transfers nothing and changes nothing). -/
def HostCycle.idle : HostCycle := ⟨false, false, 0#10⟩

/-- The host offers the token `w`. -/
def HostCycle.offer (w : TokenWord) : HostCycle := ⟨false, true, w⟩

/-- The host asserts `rst`. -/
def HostCycle.reset : HostCycle := ⟨true, false, 0#10⟩

/-- What the input ports carry now. -/
def State.input (s : State) : HostCycle := s.inputs.headD HostCycle.idle

/-- The host moves on to its next input. -/
def State.popInput (s : State) : State := { s with inputs := s.inputs.tail }

/-- R80, R65: a token takes effect only while `ready` = 1; otherwise it is not transferred, and a token that
is not transferred changes nothing. That `exec` answers the same state then is DEDUCED (log 8). -/
def hostStep (f : State → State) (s : State) : Host.Outcome State Fault Refusal :=
  if s.ready then .next (f s) else .next s

/-- R10 (b), R66: a micro-operation is enabled only in the phase that selects it. -/
def controllerStep (p : PhaseWord) (f : State → Host.Outcome State Fault Refusal) (s : State) :
    Host.Outcome State Fault Refusal :=
  if s.ph = p then f s else .refused .microOpNotEnabled

end Sys2Proof.Machine
end

