-- ==== Sys2Proof/Machine/Aes.lean ====
section
/-! DEFINITION. The AES-128 single-block encryptor. Spec: 43_aes128.md R130 to R141 (PRESUMED: the file
states the public standard from general knowledge, log 5). -/

namespace Sys2Proof.Machine

/-! ## The field of R131 -/

/-- Multiplication by `x` (R131). -/
def xtime (a : Byte) : Byte := if a.getLsbD 7 then (a <<< 1) ^^^ 0x1B#8 else a <<< 1

/-- `xtime` applied `k` times. -/
def xtimes : Nat → Byte → Byte
  | 0, a => a
  | k + 1, a => xtime (xtimes k a)

/-- `mul(a, b)`: the XOR, over every bit `i` of `b` that is 1, of `xtime` applied `i` times to `a` (R131). -/
def mul (a b : Byte) : Byte :=
  (List.range 8).foldl (fun acc i => if b.getLsbD i then acc ^^^ xtimes i a else acc) 0x00#8

/-- The product of the squares `a^2, a^4, …` of `a`, `k` of them. -/
def squaresProduct : Nat → Byte → Byte
  | 0, _ => 0x01#8
  | k + 1, a => mul (mul a a) (squaresProduct k (mul a a))

/-- R132: the multiplicative inverse, `inv(0) = 0`, computed as `a^254` (DEDUCED, log 5: the field has 255
elements that are not 0). -/
def inv (a : Byte) : Byte := squaresProduct 7 a

/-- R132: the S-box as a formula. `romS` is the same function as a table. -/
def sboxFormula (a : Byte) : Byte :=
  let b := inv a
  b ^^^ b.rotateLeft 1 ^^^ b.rotateLeft 2 ^^^ b.rotateLeft 3 ^^^ b.rotateLeft 4 ^^^ 0x63#8

/-- `ROM_S`, rows 0 to 7 as R133 prints them: row the high nibble, column the low nibble. -/
def romSRowsA : List (List Byte) := [
  [0x63, 0x7C, 0x77, 0x7B, 0xF2, 0x6B, 0x6F, 0xC5, 0x30, 0x01, 0x67, 0x2B, 0xFE, 0xD7, 0xAB, 0x76],
  [0xCA, 0x82, 0xC9, 0x7D, 0xFA, 0x59, 0x47, 0xF0, 0xAD, 0xD4, 0xA2, 0xAF, 0x9C, 0xA4, 0x72, 0xC0],
  [0xB7, 0xFD, 0x93, 0x26, 0x36, 0x3F, 0xF7, 0xCC, 0x34, 0xA5, 0xE5, 0xF1, 0x71, 0xD8, 0x31, 0x15],
  [0x04, 0xC7, 0x23, 0xC3, 0x18, 0x96, 0x05, 0x9A, 0x07, 0x12, 0x80, 0xE2, 0xEB, 0x27, 0xB2, 0x75],
  [0x09, 0x83, 0x2C, 0x1A, 0x1B, 0x6E, 0x5A, 0xA0, 0x52, 0x3B, 0xD6, 0xB3, 0x29, 0xE3, 0x2F, 0x84],
  [0x53, 0xD1, 0x00, 0xED, 0x20, 0xFC, 0xB1, 0x5B, 0x6A, 0xCB, 0xBE, 0x39, 0x4A, 0x4C, 0x58, 0xCF],
  [0xD0, 0xEF, 0xAA, 0xFB, 0x43, 0x4D, 0x33, 0x85, 0x45, 0xF9, 0x02, 0x7F, 0x50, 0x3C, 0x9F, 0xA8],
  [0x51, 0xA3, 0x40, 0x8F, 0x92, 0x9D, 0x38, 0xF5, 0xBC, 0xB6, 0xDA, 0x21, 0x10, 0xFF, 0xF3, 0xD2]]

/-- `ROM_S`, rows 8 to F as R133 prints them: row the high nibble, column the low nibble. -/
def romSRowsB : List (List Byte) := [
  [0xCD, 0x0C, 0x13, 0xEC, 0x5F, 0x97, 0x44, 0x17, 0xC4, 0xA7, 0x7E, 0x3D, 0x64, 0x5D, 0x19, 0x73],
  [0x60, 0x81, 0x4F, 0xDC, 0x22, 0x2A, 0x90, 0x88, 0x46, 0xEE, 0xB8, 0x14, 0xDE, 0x5E, 0x0B, 0xDB],
  [0xE0, 0x32, 0x3A, 0x0A, 0x49, 0x06, 0x24, 0x5C, 0xC2, 0xD3, 0xAC, 0x62, 0x91, 0x95, 0xE4, 0x79],
  [0xE7, 0xC8, 0x37, 0x6D, 0x8D, 0xD5, 0x4E, 0xA9, 0x6C, 0x56, 0xF4, 0xEA, 0x65, 0x7A, 0xAE, 0x08],
  [0xBA, 0x78, 0x25, 0x2E, 0x1C, 0xA6, 0xB4, 0xC6, 0xE8, 0xDD, 0x74, 0x1F, 0x4B, 0xBD, 0x8B, 0x8A],
  [0x70, 0x3E, 0xB5, 0x66, 0x48, 0x03, 0xF6, 0x0E, 0x61, 0x35, 0x57, 0xB9, 0x86, 0xC1, 0x1D, 0x9E],
  [0xE1, 0xF8, 0x98, 0x11, 0x69, 0xD9, 0x8E, 0x94, 0x9B, 0x1E, 0x87, 0xE9, 0xCE, 0x55, 0x28, 0xDF],
  [0x8C, 0xA1, 0x89, 0x0D, 0xBF, 0xE6, 0x42, 0x68, 0x41, 0x99, 0x2D, 0x0F, 0xB0, 0x54, 0xBB, 0x16]]

/-- `ROM_S[x]` (R133, R46). -/
def romS (x : Byte) : Byte := ((romSRowsA ++ romSRowsB).getD (x.toNat / 16) []).getD (x.toNat % 16) 0x00#8

/-! ## Key expansion (R135, R136) -/

/-- A word of the key schedule: its bytes `.0`, `.1`, `.2`, `.3`. -/
abbrev KeyWord := Vector Byte 4

/-- `RotWord`: rotate left by one byte. -/
def rotWord (t : KeyWord) : KeyWord := #v[t[1], t[2], t[3], t[0]]

/-- `SubWord`. -/
def subWord (t : KeyWord) : KeyWord := #v[romS t[0], romS t[1], romS t[2], romS t[3]]

/-- R136: `Rcon[1] = 0x01`, `Rcon[j+1] = xtime(Rcon[j])`. Read at 1 to 10 only. -/
def rcon : Nat → Byte
  | 0 => 0x01#8
  | 1 => 0x01#8
  | j + 2 => xtime (rcon (j + 1))

/-- XOR of two words, byte by byte. -/
def xorWord (a b : KeyWord) : KeyWord := #v[a[0] ^^^ b[0], a[1] ^^^ b[1], a[2] ^^^ b[2], a[3] ^^^ b[3]]

/-- A word of zeros, never read in the expansion. -/
def zeroWord : KeyWord := #v[0x00#8, 0x00#8, 0x00#8, 0x00#8]

/-- One pass of the loop of R135: `ws` holds `w[i-1], w[i-2], …, w[0]` and becomes `w[i], w[i-1], …`. -/
def expandStep (ws : List KeyWord) (i : Nat) : List KeyWord :=
  let t := ws.getD 0 zeroWord
  let t := if i % 4 = 0 then xorWord (subWord (rotWord t)) #v[rcon (i / 4), 0x00#8, 0x00#8, 0x00#8] else t
  xorWord (ws.getD 3 zeroWord) t :: ws

/-- R135: the words `w[0..43]`. -/
def keyWords (K : Block) : List KeyWord :=
  let w0 : KeyWord := #v[K[0], K[1], K[2], K[3]]
  let w1 : KeyWord := #v[K[4], K[5], K[6], K[7]]
  let w2 : KeyWord := #v[K[8], K[9], K[10], K[11]]
  let w3 : KeyWord := #v[K[12], K[13], K[14], K[15]]
  ((List.range' 4 40).foldl expandStep [w3, w2, w1, w0]).reverse

/-- R135: round key `r`, the words `w[4r]` to `w[4r+3]`, each with its byte `.0` first. -/
def roundKey (ws : List KeyWord) (r : Nat) : Block :=
  Vector.ofFn fun i => (ws.getD (4 * r + i.val / 4) zeroWord)[i.val % 4]

/-! ## The four transformations, on the flat state `t[r + 4c] = s[r][c]` (R134) -/

/-- R137. -/
def addRoundKey (t rk : Block) : Block := xorBlock t rk

/-- R138. -/
def subBytes (t : Block) : Block := Vector.ofFn fun i => romS t[i]

/-- `s[r][c]` of the flat state (R134), used at `r < 4`, `c < 4`. -/
def stateAt (t : Block) (r c : Nat) : Byte := t[r + 4 * c]?.getD 0x00#8

/-- R139: `s'[r][c] = s[r][(c + r) mod 4]`. -/
def shiftRows (t : Block) : Block :=
  Vector.ofFn fun i => stateAt t (i.val % 4) ((i.val / 4 + i.val % 4) % 4)

/-- R140: byte `r` of the new column of `(a0, a1, a2, a3)`. -/
def mixColumn (a0 a1 a2 a3 : Byte) : Nat → Byte
  | 0 => mul a0 2 ^^^ mul a1 3 ^^^ a2 ^^^ a3
  | 1 => a0 ^^^ mul a1 2 ^^^ mul a2 3 ^^^ a3
  | 2 => a0 ^^^ a1 ^^^ mul a2 2 ^^^ mul a3 3
  | _ => mul a0 3 ^^^ a1 ^^^ a2 ^^^ mul a3 2

/-- R140: each column is mixed. -/
def mixColumns (t : Block) : Block :=
  Vector.ofFn fun i =>
    let c := i.val / 4
    mixColumn (stateAt t 0 c) (stateAt t 1 c) (stateAt t 2 c) (stateAt t 3 c) (i.val % 4)

/-! ## The cipher (R141) -/

/-- Rounds 1 to 9. -/
def middleRound (ws : List KeyWord) (t : Block) (r : Nat) : Block :=
  addRoundKey (mixColumns (shiftRows (subBytes t))) (roundKey ws r)

/-- Round 10, which has no MixColumns. -/
def lastRound (ws : List KeyWord) (t : Block) : Block :=
  addRoundKey (shiftRows (subBytes t)) (roundKey ws 10)

/-- R141, R130: `AES128_Enc(K, X)`, a pure total function. -/
def aes128Enc (K X : Block) : Block :=
  let ws := keyWords K
  lastRound ws ((List.range' 1 9).foldl (middleRound ws) (addRoundKey X (roundKey ws 0)))

end Sys2Proof.Machine
end

