-- ==== Sys2Proof/Machine/Pad.lean ====
section
/-! DEFINITION. The padding formatter's function `pad`. Spec: 42_padding.md R120 to R124, R126. -/

namespace Sys2Proof.Machine

/-- R121: the number of zero bytes, the smallest `z` with `(L + 1 + z + 2) mod 16 = 0`. -/
def zeroCount (L : Nat) : Nat := (16 - (L + 3) % 16) % 16

/-- R122: `P = L + 3 + z`. -/
def paddedLen (L : Nat) : Nat := L + 3 + zeroCount L

/-- R123: `bitlen = (8 * L) mod 65536`. -/
def bitLen (L : Nat) : Word16 := BitVec.ofNat 16 (8 * L)

/-- R122: the secret, 0x80, `z` zero bytes, `bitlen` high byte first. Total on every length (R126). -/
def pad (d : List Byte) : List Byte :=
  d ++ [padMarker] ++ List.replicate (zeroCount d.length) 0x00#8 ++
    [(bitLen d.length).extractLsb' 8 8, (bitLen d.length).extractLsb' 0 8]

/-- What U.PAD leaves in `pm` (R125): the Padded Message, then zeros. -/
def padBuffer (pm : Vector Byte 32) (d : List Byte) : Vector Byte 32 :=
  clearFrom (memWrite pm 0 (pad d)) (paddedLen d.length)

end Sys2Proof.Machine
end

