-- ==== Sys2Proof/Machine/Mmo.lean ====
section
/-! DEFINITION. The Matyas–Meyer–Oseas compression and the key derivation hash. Spec: 44_mmo.md R150 to
R153, R155; 90_conflicts.md C8 (the XOR operand is the message block). -/

namespace Sys2Proof.Machine

/-- R151: `compress(h, m) = AES128_Enc(h, m) ^ m`, `h` the key and `m` the block. -/
def compress (h m : Block) : Block := xorBlock (aes128Enc h m) m

/-- Block `j` of a padded byte sequence: the bytes `16j` to `16j+15` (R45, R155). -/
def blockOf (p : List Byte) (j : Nat) : Block := Vector.ofFn fun i => p.getD (16 * j + i.val) 0x00#8

/-- The Chaining State after the first `k` blocks of `p`, from sixteen zero bytes (R150, R152). -/
def chain (p : List Byte) (k : Nat) : Block :=
  (List.range k).foldl (fun h j => compress h (blockOf p j)) zeroBlock

/-- R155: `derive(d)`. -/
def derive (d : List Byte) : Block := chain (pad d) ((pad d).length / 16)

end Sys2Proof.Machine
end

