-- ==== Sys2Proof/Machine/Controller.lean ====
section
/-! DEFINITION. The controller's micro-operations U.CHECK, U.PAD, U.HASH. Spec: 41_crc16_validator.md R108
to R113; 42_padding.md R125; 44_mmo.md R154. -/

namespace Sys2Proof.Machine

/-- The last part of U.CHECK (R113), for a legal count: split, CRC, comparison. `crc` is loaded from 0xFFFF
whatever it held. -/
def State.compareChecksum (s : State) : State :=
  let L := secretLen s.n
  let d := secretOf s.nib L.toNat
  let g0 := byteAt s.nib L.toNat
  let g1 := byteAt s.nib (L.toNat + 1)
  let c0 := (crcBytes d).1
  let c1 := (crcBytes d).2
  let s := { s with L := L, crc := crcRun d }
  if c0 ≠ g0 ∨ c1 ≠ g1 then s.raiseError (.checksumMismatch (g0 ++ g1) (c0 ++ c1))
  else s.goPhase Phase.pad

/-- U.CHECK's checks in D00's order (R113, R175): length, odd count (never taken, R109), checksum. -/
def State.checkCall (s : State) : State :=
  if legalCount s.n = false then s.raiseError .invalidLength
  else if s.n.getLsbD 0 then s.raiseError .invalidHex
  else s.compareChecksum

/-- U.PAD's register writes (R125), for a legal `L`. -/
def State.padMessage (s : State) : State :=
  { s with
    pm := padBuffer s.pm (secretOf s.nib s.L.toNat)
    nblk := BitVec.ofNat 2 (paddedLen s.L.toNat / 16)
    blk := 0#2
    H := zeroBlock
    ph := Phase.hash }

/-- U.HASH's register writes (R154), for a block inside `pm`. -/
def State.hashBlock (s : State) : State :=
  let m := memReadBlock s.pm (16 * s.blk.toNat)
  let s' := { s with H := compress s.H m, blk := s.blk + 1#2 }
  if s.blk + 1#2 = s.nblk then { s' with st := Status.ok, ph := Phase.done } else s'

/-- U.CHECK (R113). -/
def execUCheck (s : State) : Host.Outcome State Fault Refusal :=
  controllerStep Phase.check (fun s => .next s.checkCall) s

/-- U.PAD (R125); an `L` outside 6, 8, 12, 16 is refused (U10). -/
def execUPad (s : State) : Host.Outcome State Fault Refusal :=
  controllerStep Phase.pad
    (fun s => if legalLen s.L then .next s.padMessage else .refused .padIllegalLength) s

/-- U.HASH (R154); `blk ≥ nblk` is refused (U11), and so is a block outside `pm` (log 4). -/
def execUHash (s : State) : Host.Outcome State Fault Refusal :=
  controllerStep Phase.hash
    (fun s =>
      if s.nblk ≤ s.blk then .refused .hashNoBlockLeft
      else if 2#2 ≤ s.blk then .refused .hashBlockOutsideBuffer
      else .next s.hashBlock) s

end Sys2Proof.Machine
end

