-- ==== Sys2Proof/Machine/Tokens.lean ====
section
/-! DEFINITION. The host tokens: START, CHAR, END, RSVD. Spec: 40_tokens.md R80 to R88. -/

namespace Sys2Proof.Machine

/-- CHAR in COLLECT: R82 (a digit, room left), R83 (a digit, buffer full), R84 (a skipped character). -/
def State.takeChar (c : Byte) (s : State) : State :=
  match hexval c with
  | some v => if s.n ≤ nLast then s.storeDigit v else s.saturate
  | none => s

/-- A token that belongs to an open call: `f` in COLLECT, a protocol error in IDLE and DONE (R85, R87). -/
def State.inCall (f : State → State) (s : State) : State :=
  if s.ph = Phase.collect then f s else s.setPerr

/-- START (R81): begins a call from IDLE, COLLECT or DONE. -/
def execStart (s : State) : Host.Outcome State Fault Refusal := hostStep State.beginCall s

/-- CHAR c (R82 to R85). -/
def execChar (c : Byte) (s : State) : Host.Outcome State Fault Refusal :=
  hostStep (State.inCall (State.takeChar c)) s

/-- END (R86, R87): `ph <- CHECK`. -/
def execEnd (s : State) : Host.Outcome State Fault Refusal :=
  hostStep (State.inCall fun s => s.goPhase Phase.check) s

/-- RSVD with `op` = 0b00 (R88): sets `perr` in IDLE, COLLECT and DONE, whatever `arg`. -/
def execRsvd0 (_arg : Byte) (s : State) : Host.Outcome State Fault Refusal := hostStep State.setPerr s

/-- RSVD with `op` = 0b10 (R88). -/
def execRsvd2 (_arg : Byte) (s : State) : Host.Outcome State Fault Refusal := hostStep State.setPerr s

/-- RSVD with `op` = 0b11 (R88). -/
def execRsvd3 (_arg : Byte) (s : State) : Host.Outcome State Fault Refusal := hostStep State.setPerr s

end Sys2Proof.Machine
end

