-- ==== Sys2Proof/Syntax.lean ====
section
/-! DEFINITION. The instructions: one constructor per row of spec/opcode_table.json. Spec: 00_scope.md
R2 (an "instruction" is a host token or a controller micro-operation), 30_encoding.md R61 and R66. -/

namespace Sys2Proof

/-- The nine rows of the opcode table. The three RSVD rows differ in `tok[9:8]` and keep `tok[7:0]`. -/
inductive Instr where
  /-- START, token 0x000 (R81). -/
  | start
  /-- CHAR c, tokens 0x100 to 0x1FF (R82 to R85). -/
  | char (c : Byte)
  /-- END, token 0x200 (R86, R87). -/
  | endTok
  /-- RSVD with `op` = 0b00, tokens 0x001 to 0x0FF (R88). -/
  | rsvd0 (arg : Byte)
  /-- RSVD with `op` = 0b10, tokens 0x201 to 0x2FF (R88). -/
  | rsvd2 (arg : Byte)
  /-- RSVD with `op` = 0b11, tokens 0x300 to 0x3FF (R88). -/
  | rsvd3 (arg : Byte)
  /-- U.CHECK, selected by `ph` = 2 (R113). -/
  | uCheck
  /-- U.PAD, selected by `ph` = 3 (R125). -/
  | uPad
  /-- U.HASH, selected by `ph` = 4 (R154). -/
  | uHash
  deriving DecidableEq, Repr

/-- The host tokens (format T); the others are micro-operations (format P). -/
def Instr.isToken : Instr → Bool
  | .start => true
  | .char _ => true
  | .endTok => true
  | .rsvd0 _ => true
  | .rsvd2 _ => true
  | .rsvd3 _ => true
  | .uCheck => false
  | .uPad => false
  | .uHash => false

/-- The reserved tokens (R62). -/
def Instr.isReserved : Instr → Bool
  | .rsvd0 _ => true
  | .rsvd2 _ => true
  | .rsvd3 _ => true
  | .start => false
  | .char _ => false
  | .endTok => false
  | .uCheck => false
  | .uPad => false
  | .uHash => false

end Sys2Proof
end

