-- ==== Sys2Proof/Machine/Dispatch.lean ====
section
/-! DEFINITION. What each instruction does: one arm per constructor of Instr, in the opcode table's order. -/

namespace Sys2Proof.Machine

def exec (i : Instr) (s : State) : Host.Outcome State Fault Refusal :=
  match i with
  | .start => Sys2Proof.Machine.execStart s
  | .char c => Sys2Proof.Machine.execChar c s
  | .endTok => Sys2Proof.Machine.execEnd s
  | .rsvd0 arg => Sys2Proof.Machine.execRsvd0 arg s
  | .rsvd2 arg => Sys2Proof.Machine.execRsvd2 arg s
  | .rsvd3 arg => Sys2Proof.Machine.execRsvd3 arg s
  | .uCheck => Sys2Proof.Machine.execUCheck s
  | .uPad => Sys2Proof.Machine.execUPad s
  | .uHash => Sys2Proof.Machine.execUHash s

end Sys2Proof.Machine
end

