-- ==== Sys2Proof/WellFormed.lean ====
section
/-! DEFINITION. Which instruction terms stand for a word. Spec: 30_encoding.md R61: with `arg` = 0x00
the token of `op` 0b00 is START and that of `op` 0b10 is END, so those two are no RSVD. -/

namespace Sys2Proof

/-- The checks of R61: an RSVD of `op` 0b00 or 0b10 has `arg` in 0x01 to 0xFF. -/
def Instr.wf : Instr → Bool
  | .start => true
  | .char _ => true
  | .endTok => true
  | .rsvd0 arg => arg != 0x00#8
  | .rsvd2 arg => arg != 0x00#8
  | .rsvd3 _ => true
  | .uCheck => true
  | .uPad => true
  | .uHash => true

end Sys2Proof
end

