-- ==== Sys2Proof/Decode.lean ====
section
/-! DEFINITION. Decoder and encoder. Spec: 30_encoding.md R60, R61 (format T, the token map), R66
(format P, the phase register), R68 (decoding is total). -/

namespace Sys2Proof

/-- A code word of the core: a token on the token port (format T, R60), or the phase code that selects a
micro-operation (format P, R66). -/
inductive CodeWord where
  | token (w : TokenWord)
  | select (ph : PhaseWord)
  deriving DecidableEq, Repr

/-- Why a word stands for no instruction. -/
inductive DecodeError where
  /-- Phase codes 0, 1, 5: the controller waits for the host (R66). -/
  | noMicroOperation
  /-- Phase codes 6, 7: unreachable, stuck if forced (R66). -/
  | unusedPhaseCode
  /-- A byte of format P with a bit above `ph[2:0]` set. -/
  | bitsAbovePhaseCode
  /-- Two bytes of format T with a bit above `tok[9:0]` set. -/
  | bitsAboveToken
  /-- Neither one byte (format P) nor two (format T). -/
  | badLength
  deriving DecidableEq, Repr

/-- `op = tok[9:8]` (R60). -/
def tokenOp (w : TokenWord) : BitVec 2 := w.extractLsb' 8 2

/-- `arg = tok[7:0]` (R60). -/
def tokenArg (w : TokenWord) : Byte := w.extractLsb' 0 8

/-- R61: every one of the 1024 token values is in exactly one row. -/
def decodeToken (w : TokenWord) : Instr :=
  if tokenOp w = 0b00#2 then
    if tokenArg w = 0x00#8 then .start else .rsvd0 (tokenArg w)
  else if tokenOp w = 0b01#2 then .char (tokenArg w)
  else if tokenOp w = 0b10#2 then
    if tokenArg w = 0x00#8 then .endTok else .rsvd2 (tokenArg w)
  else .rsvd3 (tokenArg w)

/-- R66: the micro-operation that the phase code selects. -/
def decodeSelect (ph : PhaseWord) : Except DecodeError Instr :=
  if ph = 0b010#3 then .ok .uCheck
  else if ph = 0b011#3 then .ok .uPad
  else if ph = 0b100#3 then .ok .uHash
  else if ph = 0b110#3 ∨ ph = 0b111#3 then .error .unusedPhaseCode
  else .error .noMicroOperation

/-- The instruction of a code word. -/
def decode : CodeWord → Except DecodeError Instr
  | .token w => .ok (decodeToken w)
  | .select ph => decodeSelect ph

/-- The code word held in bytes: one byte holds a phase code, two bytes hold a token, low byte first, the
unused high bits 0. DESIGN CHOICE (log 3): the core stores no code words; this layout serves the opcode table. -/
def codeWordOfBytes : List Byte → Except DecodeError CodeWord
  | [b] => if b.toNat < 8 then .ok (.select (b.setWidth 3)) else .error .bitsAbovePhaseCode
  | [b0, b1] =>
    if b1.toNat < 4 then .ok (.token (b1.setWidth 2 ++ b0)) else .error .bitsAboveToken
  | _ => .error .badLength

/-- Decoding from bytes, total on every list of bytes. -/
def decodeBytes (bs : List Byte) : Except DecodeError Instr :=
  match codeWordOfBytes bs with
  | .ok cw => decode cw
  | .error e => .error e

/-- The token with these two fields: `op ‖ arg` (R60). -/
def tokenWord (op : BitVec 2) (arg : Byte) : TokenWord := op ++ arg

/-- The code word of an instruction, from the tables of R61 and R66. -/
def encode : Instr → CodeWord
  | .start => .token (tokenWord 0b00#2 0x00#8)
  | .char c => .token (tokenWord 0b01#2 c)
  | .endTok => .token (tokenWord 0b10#2 0x00#8)
  | .rsvd0 arg => .token (tokenWord 0b00#2 arg)
  | .rsvd2 arg => .token (tokenWord 0b10#2 arg)
  | .rsvd3 arg => .token (tokenWord 0b11#2 arg)
  | .uCheck => .select 0b010#3
  | .uPad => .select 0b011#3
  | .uHash => .select 0b100#3

/-- The bytes of a code word, in the layout that `codeWordOfBytes` reads. -/
def CodeWord.bytes : CodeWord → List Byte
  | .token w => [w.extractLsb' 0 8, (w.extractLsb' 8 2).setWidth 8]
  | .select ph => [ph.setWidth 8]

/-- The bytes of an instruction. -/
def encodeBytes (i : Instr) : List Byte := (encode i).bytes

/-- The instruction read from an opcode-table word: up to 8 bits are a row of format P, more are a row of
format T. DESIGN CHOICE (log 3). -/
def decodeTableWord (nbits w : Nat) : Option Instr :=
  if nbits ≤ 8 then
    if w < 256 then (decodeBytes [BitVec.ofNat 8 w]).toOption else none
  else if w < 65536 then
    (decodeBytes [BitVec.ofNat 8 w, BitVec.ofNat 8 (w / 256)]).toOption
  else none

end Sys2Proof
end

