-- ==== Sys2Proof/Machine/Fetch.lean ====
section
/-! DEFINITION. What the next step is: reset, a token, a micro-operation, waiting, or nothing at all. The
core fetches no instructions (10_state.md R26); a step comes from `rst`, from the token port or from `ph`.
Spec: 10_state.md R10, R12; 30_encoding.md R65, R66; 70_reset_and_hazards.md R190. -/

namespace Sys2Proof.Machine

/-- The kinds of step. -/
inductive Fetched where
  /-- `rst` is asserted (R190). -/
  | reset
  /-- A token is transferred, or the phase selects a micro-operation. -/
  | run (i : Instr)
  /-- `ready` = 1 and no token is offered (R65). -/
  | wait
  /-- `ph` is 6 or 7 (R12, R66). -/
  | stuck
  deriving DecidableEq, Repr

/-- Reset wins (R190, U15); while `ready` = 1 the host's token is taken (R65); else `ph` alone selects (R66). -/
def fetch (s : State) : Fetched :=
  if s.input.rst then .reset
  else if s.ready then
    if s.input.tokValid then .run (decodeToken s.input.tok) else .wait
  else
    match decodeSelect s.ph with
    | .ok i => .run i
    | .error _ => .stuck

/-- `s` with the token `w` offered next, in a phase that takes tokens (log 6). -/
def placeToken (s : State) (w : TokenWord) : State :=
  { s with
    ph := if s.ready then s.ph else Phase.idle
    inputs := HostCycle.offer w :: s.inputs }

/-- `s` with `ph` at the code `p`, no reset offered, and, where a micro-operation could not be enabled
there, the operands of R29 (f) and (g) at their smallest legal values (log 6). -/
def placeSelect (s : State) (p : PhaseWord) : State :=
  { s with
    ph := p
    L := if p = Phase.pad ∧ legalLen s.L = false then 6#5 else s.L
    nblk := if p = Phase.hash ∧ (s.nblk ≤ s.blk ∨ 2#2 ≤ s.blk) then 1#2 else s.nblk
    blk := if p = Phase.hash ∧ (s.nblk ≤ s.blk ∨ 2#2 ≤ s.blk) then 0#2 else s.blk
    inputs := HostCycle.idle :: s.inputs }

end Sys2Proof.Machine
end

