-- ==== Sys2Proof/Machine/Step.lean ====
section
/-! DEFINITION. One step of the machine. Spec: 10_state.md R10 (the agents; each step is atomic). -/

namespace Sys2Proof.Machine

/-- One step: reset, one token, one micro-operation, or waiting with no effect. A step uses up the host's
input of that moment; a token offered while `ready` = 0 is not transferred (R65, R194). -/
def step (s : State) : Host.Outcome State Fault Refusal :=
  match fetch s with
  | .reset => .next s.popInput.resetEvent
  | .run i => exec i s.popInput
  | .wait => .next s.popInput
  | .stuck => .fault .stuckPhase

/-- `s` with the opcode-table word `w` placed so that the next step runs it: rows of up to 8 bits are phase
codes, longer rows are tokens (log 6). -/
def State.withFetchWord (s : State) (nbits w : Nat) : State :=
  if nbits ≤ 8 then placeSelect s (BitVec.ofNat 3 w) else placeToken s (BitVec.ofNat 10 w)

end Sys2Proof.Machine
end

