-- ==== Sys2Proof/Config.lean ====
section
/-! DEFINITION. What an implementation fixes and the spec leaves open: the one OPEN parameter `CYC`.
Spec: 00_scope.md R6 (row CYC), 70_reset_and_hazards.md R199, 93_implementation_defined.md U1.
Every other parameter of R6 has a value and stands in Machine/Params.lean. -/

namespace Sys2Proof

/-- The clock cycles beyond the first of the step numbered `k` of the run numbered `run`, taken in state `s`:
"possibly different for each, possibly depending on the data" (R199). No body: nothing can be proved of its
value (log 2). -/
opaque Config.extraCycles : (run k : Nat) → (s : Machine.State) → Nat

/-- `CYC`: "any positive number for each step" (R199). -/
def Config.cyc (run k : Nat) (s : Machine.State) : Nat := Config.extraCycles run k s + 1

end Sys2Proof
end

