-- ==== Sys2Proof/Machine/Timing.lean ====
section
/-! DEFINITION. Clock cycles, over the OPEN parameter `CYC`. No rule reads time (70_reset_and_hazards.md
R199); only step counts are fixed (R201). -/

namespace Sys2Proof.Machine

/-- The clock cycles of the next `k` steps of the run numbered `run`, from `s` at step number `j`; a run that
stops takes no more (R199). -/
def clockCycles (run : Nat) : Nat → Nat → State → Nat
  | _, 0, _ => 0
  | j, k + 1, s =>
    match step s with
    | .next t => Config.cyc run j s + clockCycles run (j + 1) k t
    | .fault _ => 0
    | .refused _ => 0

end Sys2Proof.Machine
end

