-- ==== Sys2Proof/Machine/WholeFunction.lean ====
section
/-! DEFINITION. The core's whole behaviour as one function, and the written form of calls. Spec: 44_mmo.md
R156, R157; 30_encoding.md R69, R70. -/

namespace Sys2Proof.Machine

/-- What a call answers (R156). -/
inductive CallResult where
  | ok (key : Block)
  | invalidLength
  | invalidHex
  | checksumMismatch (cg cc : Word16)
  deriving DecidableEq, Repr

/-- The Normalized Hex Digest: the values of the digit characters, in order (R89, R156). -/
def digitsOf (s : List Byte) : List Nibble := s.filterMap hexval

/-- `byte[i] = 16*q[2i] + q[2i+1]` on a sequence of digits (R42, R156). -/
def byteOfDigits (q : List Nibble) (i : Nat) : Byte := q.getD (2 * i) 0#4 ++ q.getD (2 * i + 1) 0#4

/-- R156: `decode(s)`, for a string of any length. -/
def installDecode (s : List Byte) : CallResult :=
  let q := digitsOf s
  let n := q.length
  if n ∉ [16, 20, 28, 36] then .invalidLength
  else if n % 2 = 1 then .invalidHex
  else
    let L := n / 2 - 2
    let d := (List.range L).map (byteOfDigits q)
    let g0 := byteOfDigits q L
    let g1 := byteOfDigits q (L + 1)
    let c0 := (crcBytes d).1
    let c1 := (crcBytes d).2
    if (c0, c1) ≠ (g0, g1) then .checksumMismatch (g0 ++ g1) (c0 ++ c1) else .ok (derive d)

/-- The column `status` of R157. -/
def CallResult.status : CallResult → BitVec 3
  | .ok _ => Status.ok
  | .invalidLength => Status.invalidLength
  | .invalidHex => Status.invalidHex
  | .checksumMismatch _ _ => Status.checksumMismatch

/-- The column `key` of R157. -/
def CallResult.key : CallResult → Block
  | .ok k => k
  | .invalidLength => zeroBlock
  | .invalidHex => zeroBlock
  | .checksumMismatch _ _ => zeroBlock

/-- The column `crc_given` of R157. -/
def CallResult.crcGiven : CallResult → Word16
  | .ok _ => 0x0000#16
  | .invalidLength => 0x0000#16
  | .invalidHex => 0x0000#16
  | .checksumMismatch cg _ => cg

/-- The column `crc_calc` of R157. -/
def CallResult.crcCalc : CallResult → Word16
  | .ok _ => 0x0000#16
  | .invalidLength => 0x0000#16
  | .invalidHex => 0x0000#16
  | .checksumMismatch _ cc => cc

/-- The micro-operations that the controller takes from END to DONE for the string `s` (R157, R201):
U.CHECK; after a correct checksum U.PAD and one U.HASH for each block. -/
def controllerOps (s : List Byte) : List Instr :=
  match installDecode s with
  | .ok _ =>
    if (digitsOf s).length = 36 then [.uCheck, .uPad, .uHash, .uHash] else [.uCheck, .uPad, .uHash]
  | .invalidLength => [.uCheck]
  | .invalidHex => [.uCheck]
  | .checksumMismatch _ _ => [.uCheck]

/-- `STR "s"` (R70): one CHAR token for each character. -/
def strTokens (s : List Byte) : List TokenWord := s.map (tokenWord 0b01#2)

/-- `CODE "s"` (R70): START, `STR "s"`, END. -/
def codeTokens (s : List Byte) : List TokenWord :=
  tokenWord 0b00#2 0x00#8 :: strTokens s ++ [tokenWord 0b10#2 0x00#8]

/-- The host passes these tokens, one a step (R65). -/
def offerAll (ts : List TokenWord) : List HostCycle := ts.map HostCycle.offer

/-- What may stand between START and END of a call: an idle cycle, a CHAR token, a reserved token (R157). -/
def HostCycle.insideCall (c : HostCycle) : Bool :=
  !c.rst && (!c.tokValid || match decodeToken c.tok with
    | .char _ => true
    | i => i.isReserved)

/-- The characters that these inputs carry (R89). -/
def charsOf (cs : List HostCycle) : List Byte :=
  cs.filterMap fun c => if c.tokValid then
    match decodeToken c.tok with
    | .char x => some x
    | _ => none
  else none

/-- Whether a reserved token is among these inputs (R157). -/
def anyReserved (cs : List HostCycle) : Bool := cs.any fun c => c.tokValid && (decodeToken c.tok).isReserved

end Sys2Proof.Machine
end

