-- ==== Sys2Proof/Safety.lean ====
section
/-! DEFINITION. What holds of the states that a run reaches, and the terms in which claims speak of runs.
Spec: 10_state.md R29 (the listed invariants); R14 to R19, 60_exceptions.md R174, R176 (the facts that carry
them from step to step). -/

namespace Sys2Proof.Machine

/-- The states that some host can bring the core to from reset: reset with any inputs to come, then steps. -/
inductive Reachable : State → Prop where
  | reset (ins : List HostCycle) : Reachable { State.reset with inputs := ins }
  | step {s t : State} : Reachable s → step s = .next t → Reachable t

/-- The secret that the digit buffer holds, at the length in `L` (R43, R114). -/
def State.secret (s : State) : List Byte := secretOf s.nib s.L.toNat

/-- U.CHECK has passed in this call: PAD, HASH, or DONE with OK (R29 (f)). -/
def State.passed (s : State) : Prop :=
  s.ph = Phase.pad ∨ s.ph = Phase.hash ∨ (s.ph = Phase.done ∧ s.st = Status.ok)

/-- The hash has begun in this call: HASH, or DONE with OK. -/
def State.hashing (s : State) : Prop := s.ph = Phase.hash ∨ (s.ph = Phase.done ∧ s.st = Status.ok)

/-- The nine facts of R29, in its order. -/
structure State.ListedFacts (s : State) : Prop where
  /-- (a) -/
  phase : s.ph.toNat ≤ 5
  /-- (b) -/
  status_iff_done : s.st ≠ Status.none ↔ s.ph = Phase.done
  /-- (c) -/
  status_legal : s.st ≠ Status.invalidHex ∧ s.st.toNat < 5
  /-- (d) -/
  count : s.n.toNat ≤ 37
  /-- (d) -/
  unused_digits : ∀ i : Nat, s.n.toNat ≤ i → i < 36 → nibAt s.nib i = 0#4
  /-- (e) -/
  diag_zero : s.st ≠ Status.checksumMismatch → s.cg = 0x0000#16 ∧ s.cc = 0x0000#16
  /-- (e) -/
  diag_differ : s.st = Status.checksumMismatch → s.cg ≠ s.cc
  /-- (f) -/
  checked : s.passed → (s.n.toNat = 16 ∨ s.n.toNat = 20 ∨ s.n.toNat = 28 ∨ s.n.toNat = 36) ∧
    s.L.toNat = s.n.toNat / 2 - 2 ∧ checksumCorrect s.nib s.L.toNat = true
  /-- (g) -/
  block_left : s.ph = Phase.hash → (s.nblk = 1#2 ∨ s.nblk = 2#2) ∧ s.blk.toNat < s.nblk.toNat
  /-- (g) -/
  all_blocks : s.ph = Phase.done → s.st = Status.ok → s.blk = s.nblk
  /-- (h) -/
  key_derived : s.st = Status.ok → s.H = derive s.secret
  /-- (i) -/
  idle_reset : s.ph = Phase.idle → s = { State.reset with perr := s.perr, inputs := s.inputs }

/-- What the registers hold in the middle of a call; with it the facts of R29 carry from step to step. -/
structure State.WorkFacts (s : State) : Prop where
  /-- `L` and `crc` keep START's values until U.CHECK (R15, R113). -/
  before_check : s.ph = Phase.collect ∨ s.ph = Phase.check → s.L = 0#5 ∧ s.crc = crcStart
  /-- `pm`, `nblk`, `blk`, `H` keep START's values until U.PAD, and in an error (R174, R176). -/
  before_pad : ¬ s.hashing →
    s.pm = Vector.replicate 32 0x00#8 ∧ s.nblk = 0#2 ∧ s.blk = 0#2 ∧ s.H = zeroBlock
  /-- After U.CHECK `crc` holds the running value (R16). -/
  crc_run : s.passed → s.crc = crcRun s.secret
  /-- After U.PAD `pm` holds the Padded Message, then zeros (R17). -/
  message : s.hashing → ∀ a : Nat, a < 32 → pmAt s.pm a = (pad s.secret).getD a 0x00#8
  /-- After U.PAD `nblk` is the number of blocks (R18). -/
  block_count : s.hashing → 16 * s.nblk.toNat = (pad s.secret).length
  /-- After `blk` blocks `H` is the Chaining State `H_blk` (R19, R152). -/
  chaining : s.hashing → s.H = chain (pad s.secret) s.blk.toNat

/-- The invariant of the machine. -/
def State.Inv (s : State) : Prop := s.ListedFacts ∧ s.WorkFacts

/-- The instructions that the next `k` steps run, waiting and reset left out. -/
def instrTrace : Nat → State → List Instr
  | 0, _ => []
  | k + 1, s =>
    match step s with
    | .next t =>
      match fetch s with
      | .run i => i :: instrTrace k t
      | .reset => instrTrace k t
      | .wait => instrTrace k t
      | .stuck => instrTrace k t
    | .fault _ => []
    | .refused _ => []

/-- Two states alike in every register but `perr`, and in what the host will pass. -/
def State.EqButPerr (s t : State) : Prop := { s with perr := t.perr } = t

/-- Two outcomes of the same kind, next states alike but for `perr`. -/
def outcomesEqButPerr : Host.Outcome State Fault Refusal → Host.Outcome State Fault Refusal → Prop
  | .next s, .next t => s.EqButPerr t
  | .fault e, .fault e' => e = e'
  | .refused r, .refused r' => r = r'
  | _, _ => False

end Sys2Proof.Machine
end

