-- ==== Sys2Proof/Certificates/Slice0/Obligations.lean ====
section
/-! DEFINITION. The statements for the provers. Each docstring names the rule of the spec. Where a
statement gives the whole next state as a record update of `s`, its frame is in it: every register not
named keeps its value. -/

open Sys2Proof Sys2Proof.Machine

/-! ## Reset -/

/-- R30, R191: the value of every register after reset, and what the ports show. -/
def Obligations.ResetValuesAsListed : Prop :=
  let s := State.reset;
  (s.ph = Phase.idle ∧ s.n = 0#6 ∧ (∀ i : Nat, i < 36 → nibAt s.nib i = 0#4) ∧ s.L = 0#5 ∧
    s.crc = 0xFFFF#16 ∧ (∀ a : Nat, a < 32 → pmAt s.pm a = 0x00#8) ∧ s.nblk = 0#2 ∧ s.blk = 0#2 ∧
    (∀ i : Fin 16, s.H[i] = 0x00#8) ∧ s.st = Status.none ∧ s.cg = 0x0000#16 ∧ s.cc = 0x0000#16 ∧
    s.perr = false) ∧
  (s.ready = true ∧ s.done = false ∧ s.status = 0#3 ∧ s.perrPort = false ∧
    (∀ i : Fin 16, s.key[i] = 0x00#8) ∧ s.crcGiven = 0x0000#16 ∧ s.crcCalc = 0x0000#16)

/-- R190: `rst` puts every register at its reset value in one step, whatever the state was and whatever
stands on the token port; no token is transferred and no controller step is taken.
The samples of the input ports are `inputs` (log 1). -/
def Obligations.ResetEventFromAnyState : Prop :=
  ∀ s : State, s.input.rst = true → step s = .next { State.reset with inputs := s.inputs.tail }

/-! ## Encoding -/

/-- R61: the rows of the token map, and how many of the 1024 values each has. -/
def Obligations.TokenMapRows : Prop :=
  (∀ t : TokenWord,
    (t = 0x000#10 → decodeToken t = .start) ∧
    (t = 0x200#10 → decodeToken t = .endTok) ∧
    (t &&& 0x300#10 = 0x100#10 → decodeToken t = .char (t.setWidth 8)) ∧
    (t ≠ 0x000#10 → t &&& 0x300#10 = 0x000#10 → decodeToken t = .rsvd0 (t.setWidth 8)) ∧
    (t ≠ 0x200#10 → t &&& 0x300#10 = 0x200#10 → decodeToken t = .rsvd2 (t.setWidth 8)) ∧
    (t &&& 0x300#10 = 0x300#10 → decodeToken t = .rsvd3 (t.setWidth 8))) ∧
  (let all := (List.range 1024).map fun k => decodeToken (BitVec.ofNat 10 k);
    all.countP (· == .start) = 1 ∧ all.countP (· == .endTok) = 1 ∧
    all.countP (fun i => match i with | .char _ => true | _ => false) = 256 ∧
    all.countP (fun i => match i with | .rsvd0 _ => true | _ => false) = 255 ∧
    all.countP (fun i => match i with | .rsvd2 _ => true | _ => false) = 255 ∧
    all.countP (fun i => match i with | .rsvd3 _ => true | _ => false) = 256)

/-- R66: the phase register alone selects the micro-operation; five of its codes select none. -/
def Obligations.PhaseCodeSelectsMicroOp : Prop :=
  decode (.select 0b010#3) = .ok .uCheck ∧ decode (.select 0b011#3) = .ok .uPad ∧
  decode (.select 0b100#3) = .ok .uHash ∧
  ∀ p : PhaseWord, p = 0b000#3 ∨ p = 0b001#3 ∨ p = 0b101#3 ∨ p = 0b110#3 ∨ p = 0b111#3 →
    ∀ i : Instr, decode (.select p) ≠ .ok i

/-- R61, R66: words written out from the spec's encodings decode to what they stand for. How a word's bits reach
the decoder is the model's choice, not the spec's (log 3): a row of up to 8 bits is a phase code, a longer one a
token, in the model's byte layout. -/
def Obligations.WrittenOutWordsDecode : Prop :=
  decodeTableWord 16 0b0000000000 = some .start ∧
  decodeTableWord 16 0b0101100010 = some (.char 0x62#8) ∧
  decodeTableWord 16 0b1000000000 = some .endTok ∧
  decodeTableWord 16 0b0000000001 = some (.rsvd0 0x01#8) ∧
  decodeTableWord 16 0b1011111111 = some (.rsvd2 0xFF#8) ∧
  decodeTableWord 16 0b1110101010 = some (.rsvd3 0xAA#8) ∧
  decodeTableWord 8 0b010 = some .uCheck ∧ decodeTableWord 8 0b011 = some .uPad ∧
  decodeTableWord 8 0b100 = some .uHash

/-- Every well-formed instruction comes back from its code word (R61, R66, R68) and from its bytes. The byte
layout is the model's choice (log 3): the spec lays no code word out in bytes, and the rules cited say nothing
about it. -/
def Obligations.EncodeThenDecodeGivesItBack : Prop :=
  ∀ i : Instr, i.wf = true → decode (encode i) = .ok i ∧ decodeBytes (encodeBytes i) = .ok i

/-- A code word that decodes stands for a well-formed instruction and is that instruction's own code word:
every word has one meaning and no two instructions share a word (R61, R66, R68). -/
def Obligations.DecodeThenEncodeGivesItBack : Prop :=
  ∀ (cw : CodeWord) (i : Instr), decode cw = .ok i → i.wf = true ∧ encode i = cw

/-! ## The step -/

/-- R10, R65, R66: a step runs the instruction that the token port or the phase register gives, and only
moves the host on to its next input besides; with no token offered it only does that.
The samples of the input ports are `inputs` (log 1). -/
def Obligations.StepRunsTheDecodedInstruction : Prop :=
  ∀ (s : State) (i : Instr), s.input.rst = false →
    (s.ready = true → s.input.tokValid = true → decode (.token s.input.tok) = .ok i →
      step s = exec i s.popInput) ∧
    (decode (.select s.ph) = .ok i → step s = exec i s.popInput) ∧
    (s.ready = true → s.input.tokValid = false → step s = .next s.popInput)

/-- R65, R194: while `ready` = 0 a token is not transferred: a step is the same whatever stands on the token
port. That `exec` of a token then answers the same state is the model's choice (log 8): the spec has no case for
a token there. The samples of the input ports are `inputs` (log 1). -/
def Obligations.TokenNotTransferredWhileBusy : Prop :=
  ∀ s : State, s.ready = false →
    (∀ i : Instr, i.isToken = true → exec i s = .next s) ∧
    (∀ (v v' : Bool) (w w' : TokenWord) (rest : List HostCycle),
      step { s with inputs := ⟨false, v, w⟩ :: rest } = step { s with inputs := ⟨false, v', w'⟩ :: rest })

/-- R12: which step is enabled in each phase, and the only transitions between phases.
The samples of the input ports are `inputs` (log 1). -/
def Obligations.PhaseTransitionsAsListed : Prop :=
  ∀ s : State,
    ((s.ph = Phase.idle ∨ s.ph = Phase.collect ∨ s.ph = Phase.done) → s.input.rst = false →
      (s.input.tokValid = true → fetch s = .run (decodeToken s.input.tok)) ∧
      (s.input.tokValid = false → fetch s = .wait)) ∧
    (s.ph = Phase.check → s.input.rst = false → fetch s = .run .uCheck) ∧
    (s.ph = Phase.pad → s.input.rst = false → fetch s = .run .uPad) ∧
    (s.ph = Phase.hash → s.input.rst = false → fetch s = .run .uHash) ∧
    ((s.ph = 6#3 ∨ s.ph = 7#3) → s.input.rst = false → fetch s = .stuck) ∧
    ∀ t : State, step s = .next t → t.ph ≠ s.ph →
      (s.input.rst = true ∧ t.ph = Phase.idle) ∨
      (fetch s = .run .start ∧ (s.ph = Phase.idle ∨ s.ph = Phase.collect ∨ s.ph = Phase.done) ∧
        t.ph = Phase.collect) ∨
      (fetch s = .run .endTok ∧ s.ph = Phase.collect ∧ t.ph = Phase.check) ∨
      (fetch s = .run .uCheck ∧ s.ph = Phase.check ∧ (t.ph = Phase.pad ∨ t.ph = Phase.done)) ∨
      (fetch s = .run .uPad ∧ s.ph = Phase.pad ∧ t.ph = Phase.hash) ∨
      (fetch s = .run .uHash ∧ s.ph = Phase.hash ∧ t.ph = Phase.done)

/-- R12, R66 and row U2 of 93_implementation_defined.md: with `ph` at 6 or 7 no step is enabled and only
`rst` leaves the state.
The fault `stuckPhase` is the model's form of "stuck" (log 9); the samples of the input ports are `inputs` (log 1). -/
def Obligations.UnusedPhaseCodesAreStuck : Prop :=
  ∀ s : State, s.ph = 6#3 ∨ s.ph = 7#3 →
    s.ready = false ∧ s.done = false ∧
    (s.input.rst = false → step s = .fault .stuckPhase) ∧
    (s.input.rst = true → step s = .next { State.reset with inputs := s.inputs.tail })

/-- The model's choice (log 7), from R10 (b) and R66: a micro-operation asked for in a phase that does not
select it is refused by name. -/
def Obligations.MicroOpRefusedOutsideItsPhase : Prop :=
  ∀ s : State,
    (s.ph ≠ Phase.check → exec .uCheck s = .refused .microOpNotEnabled) ∧
    (s.ph ≠ Phase.pad → exec .uPad s = .refused .microOpNotEnabled) ∧
    (s.ph ≠ Phase.hash → exec .uHash s = .refused .microOpNotEnabled)

/-! ## Host tokens -/

/-- R81: START writes every register; what the host will pass stays. The ports go to zero. -/
def Obligations.StartWritesEveryRegister : Prop :=
  ∀ s : State, s.ready = true → ∃ t : State, exec .start s = .next t ∧
    t = { ph := Phase.collect, n := 0#6, nib := Vector.replicate 36 0#4, L := 0#5, crc := 0xFFFF#16,
          pm := Vector.replicate 32 0x00#8, nblk := 0#2, blk := 0#2, H := Vector.replicate 16 0x00#8,
          st := Status.none, cg := 0x0000#16, cc := 0x0000#16, perr := false, inputs := s.inputs } ∧
    t.status = 0#3 ∧ (∀ i : Fin 16, t.key[i] = 0x00#8) ∧ t.crcGiven = 0x0000#16 ∧
    t.crcCalc = 0x0000#16 ∧ t.done = false ∧ t.perrPort = false

/-- R82: a digit character is stored at `nib[n]` and counted; everything else is unchanged. -/
def Obligations.CharStoresADigit : Prop :=
  ∀ (s : State) (c : Byte) (v : Nibble), s.ph = Phase.collect → hexval c = some v → s.n.toNat ≤ 35 →
    ∃ t : State, exec (.char c) s = .next t ∧ t = { s with nib := t.nib, n := t.n } ∧
      t.n.toNat = s.n.toNat + 1 ∧ nibAt t.nib s.n.toNat = v ∧
      ∀ j : Nat, j ≠ s.n.toNat → nibAt t.nib j = nibAt s.nib j

/-- R83: with the buffer full `n` becomes 37 and `nib` is unchanged; once 37, only START and reset change it;
the call ends in InvalidLength.
The samples of the input ports are `inputs` (log 1). -/
def Obligations.CharSaturatesTheCount : Prop :=
  (∀ (s : State) (c : Byte) (v : Nibble), s.ph = Phase.collect → hexval c = some v → 36 ≤ s.n.toNat →
    exec (.char c) s = .next { s with n := 37#6 }) ∧
  (∀ s t : State, s.n = 37#6 → step s = .next t → s.input.rst = false → fetch s ≠ .run .start →
    t.n = 37#6) ∧
  (∀ s : State, s.ph = Phase.check → s.n = 37#6 →
    exec .uCheck s = .next { s with st := Status.invalidLength, ph := Phase.done })

/-- R84: a skipped character changes no register. -/
def Obligations.SkippedCharChangesNothing : Prop :=
  ∀ (s : State) (c : Byte), s.ph = Phase.collect → hexval c = none → exec (.char c) s = .next s

/-- R85: CHAR in IDLE or DONE sets `perr` and changes nothing else. -/
def Obligations.CharOutsideACallSetsPerr : Prop :=
  ∀ (s : State) (c : Byte), s.ph = Phase.idle ∨ s.ph = Phase.done →
    exec (.char c) s = .next { s with perr := true }

/-- R86: END in COLLECT moves to CHECK and changes nothing else; `ready` is then 0 and U.CHECK is selected; with
no digit stored it leads to InvalidLength. -/
def Obligations.EndMovesToCheck : Prop :=
  ∀ s : State, s.ph = Phase.collect → ∃ t : State, exec .endTok s = .next t ∧
    t = { s with ph := Phase.check } ∧ t.ready = false ∧ decode (.select t.ph) = .ok .uCheck ∧
    (s.n = 0#6 → exec .uCheck t = .next { t with st := Status.invalidLength, ph := Phase.done })

/-- R87: END in IDLE or DONE sets `perr` and changes nothing else. -/
def Obligations.EndOutsideACallSetsPerr : Prop :=
  ∀ s : State, s.ph = Phase.idle ∨ s.ph = Phase.done → exec .endTok s = .next { s with perr := true }

/-- R88: a reserved token, of any of the three rows, sets `perr` and changes nothing else. -/
def Obligations.ReservedTokenSetsPerr : Prop :=
  ∀ (s : State) (arg : Byte), s.ph = Phase.idle ∨ s.ph = Phase.collect ∨ s.ph = Phase.done →
    exec (.rsvd0 arg) s = .next { s with perr := true } ∧
    exec (.rsvd2 arg) s = .next { s with perr := true } ∧
    exec (.rsvd3 arg) s = .next { s with perr := true }

/-- Frame of CHAR, END and RSVD, from R82 to R88 and R53: the datapath registers and the result registers
keep their values; `nib` changes at most at index `n`, and only by CHAR; `ph` changes only by END; `perr`
never falls; the token's effect does not touch what the host will pass. -/
def Obligations.TokenFrame : Prop :=
  ∀ (s t : State) (i : Instr), i.isToken = true → i ≠ .start → exec i s = .next t →
    t.L = s.L ∧ t.crc = s.crc ∧ t.pm = s.pm ∧ t.nblk = s.nblk ∧ t.blk = s.blk ∧ t.H = s.H ∧
    t.st = s.st ∧ t.cg = s.cg ∧ t.cc = s.cc ∧ t.inputs = s.inputs ∧
    (∀ j : Nat, j ≠ s.n.toNat → nibAt t.nib j = nibAt s.nib j) ∧
    (t.nib ≠ s.nib ∨ t.n ≠ s.n → ∃ c : Byte, i = .char c) ∧
    (t.ph ≠ s.ph → i = .endTok) ∧ (s.perr = true → t.perr = true)

/-! ## Operands and the front end -/

/-- R64: `hexval` on every range of character codes. -/
def Obligations.HexvalClasses : Prop :=
  ∀ c : Byte,
    (0x30 ≤ c.toNat ∧ c.toNat ≤ 0x39 → hexval c = some (BitVec.ofNat 4 (c.toNat - 0x30))) ∧
    (0x41 ≤ c.toNat ∧ c.toNat ≤ 0x46 → hexval c = some (BitVec.ofNat 4 (c.toNat - 0x37))) ∧
    (0x61 ≤ c.toNat ∧ c.toNat ≤ 0x66 → hexval c = some (BitVec.ofNat 4 (c.toNat - 0x57))) ∧
    (c.toNat ≤ 0x2F ∨ (0x3A ≤ c.toNat ∧ c.toNat ≤ 0x40) ∨ (0x47 ≤ c.toNat ∧ c.toNat ≤ 0x60) ∨
      0x67 ≤ c.toNat → hexval c = none)

/-- R42: the byte view, first digit of a pair high. -/
def Obligations.ByteViewFirstDigitHigh : Prop :=
  ∀ (nib : Vector Nibble 36) (i : Fin 18),
    (byteAt nib i.val).toNat = 16 * (nib[2 * i.val]'(by omega)).toNat + (nib[2 * i.val + 1]'(by omega)).toNat

/-- R89: whatever reserved tokens and idle cycles come between, after START and the tokens of `mid` the digit
buffer holds the digits of the characters passed, in order, and `n` their number, saturated.
The samples of the input ports are `inputs` (log 1). -/
def Obligations.FrontEndCollectsTheDigits : Prop :=
  ∀ (s : State) (mid rest : List HostCycle), s.ready = true →
    (∀ c ∈ mid, c.insideCall = true) →
    s.inputs = HostCycle.offer (tokenWord 0b00#2 0x00#8) :: mid ++ rest →
    ∃ t : State, Host.Core.run core (mid.length + 1) s = .next t ∧ t.ph = Phase.collect ∧
      t.inputs = rest ∧ t.n.toNat = min (digitsOf (charsOf mid)).length 37 ∧
      (∀ i : Nat, i < min (digitsOf (charsOf mid)).length 36 →
        (digitsOf (charsOf mid))[i]? = some (nibAt t.nib i)) ∧
      t.perr = anyReserved mid

/-- R90: replacing letters `a` to `f` by their capitals, or the reverse, leaves the whole result of a call
unchanged: `n` and `nib` when END is taken, and `decode`.
The samples of the input ports are `inputs` (log 1). -/
def Obligations.CaseDoesNotMatter : Prop :=
  ∀ (s s' : State) (str str' : List Byte), s.ready = true → s'.ready = true →
    List.Forall₂ (fun c c' : Byte => c = c' ∨
      (0x61 ≤ c.toNat ∧ c.toNat ≤ 0x66 ∧ c'.toNat = c.toNat - 0x20) ∨
      (0x61 ≤ c'.toNat ∧ c'.toNat ≤ 0x66 ∧ c.toNat = c'.toNat - 0x20)) str str' →
    s.inputs = offerAll (codeTokens str) → s'.inputs = offerAll (codeTokens str') →
    installDecode str = installDecode str' ∧
    ∃ t t' : State, Host.Core.run core (str.length + 2) s = .next t ∧
      Host.Core.run core (str'.length + 2) s' = .next t' ∧ t.n = t'.n ∧ t.nib = t'.nib

/-- R91: inserting or removing skipped characters anywhere leaves `n` and `nib` unchanged, and `decode`.
The samples of the input ports are `inputs` (log 1). -/
def Obligations.SeparatorsDoNotMatter : Prop :=
  ∀ (s s' : State) (str str' : List Byte), s.ready = true → s'.ready = true →
    str.filter (fun c => (hexval c).isSome) = str'.filter (fun c => (hexval c).isSome) →
    s.inputs = offerAll (codeTokens str) → s'.inputs = offerAll (codeTokens str') →
    installDecode str = installDecode str' ∧
    ∃ t t' : State, Host.Core.run core (str.length + 2) s = .next t ∧
      Host.Core.run core (str'.length + 2) s' = .next t' ∧ t.n = t'.n ∧ t.nib = t'.nib

/-- R92: the core's test of the saturated count agrees with D00's test of the number of digits. -/
def Obligations.SaturationLosesNothing : Prop :=
  ∀ (q : List Nibble) (n : BitVec 6), n.toNat = min q.length 37 →
    (legalCount n = true ↔ q.length = 16 ∨ q.length = 20 ∨ q.length = 28 ∨ q.length = 36)

/-! ## The checksum validator -/

/-- R113: U.CHECK, all its cases. `L`, `d`, `g0`, `g1`, `f`, `c0`, `c1` are the rule's names. -/
def Obligations.CheckFollowsTheRule : Prop :=
  ∀ s : State, s.ph = Phase.check →
    (¬ (s.n.toNat = 16 ∨ s.n.toNat = 20 ∨ s.n.toNat = 28 ∨ s.n.toNat = 36) →
      exec .uCheck s = .next { s with st := 2#3, ph := Phase.done }) ∧
    (s.n.toNat = 16 ∨ s.n.toNat = 20 ∨ s.n.toNat = 28 ∨ s.n.toNat = 36 →
      s.n.getLsbD 0 = false ∧
      let L := s.n.toNat / 2 - 2
      let d := (List.range L).map (byteAt s.nib)
      let g0 := byteAt s.nib L
      let g1 := byteAt s.nib (L + 1)
      let f := crcRun d ^^^ 0xFFFF#16
      let c0 := f.extractLsb' 0 8
      let c1 := f.extractLsb' 8 8;
      (c0 ≠ g0 ∨ c1 ≠ g1 →
        exec .uCheck s = .next { s with L := BitVec.ofNat 5 L, crc := crcRun d, st := 4#3, cg := g0 ++ g1,
                                        cc := c0 ++ c1, ph := Phase.done }) ∧
      (c0 = g0 ∧ c1 = g1 →
        exec .uCheck s = .next { s with L := BitVec.ofNat 5 L, crc := crcRun d, ph := Phase.pad }))

/-- R109, R172: the odd-count check cannot fire after the length check, and no step ever writes the status
InvalidHex. -/
def Obligations.InvalidHexIsNeverProduced : Prop :=
  (∀ n : BitVec 6, legalCount n = true → n.getLsbD 0 = false) ∧
  (∀ s t : State, step s = .next t → t.st = Status.invalidHex → s.st = Status.invalidHex)

/-- R174: raising an error writes the code to `st`, for ChecksumMismatch `cg` and `cc`, and DONE to `ph`,
and nothing else; `key` then reads zero. -/
def Obligations.RaisingAnErrorWrites : Prop :=
  ∀ s : State,
    s.raiseError .invalidLength = { s with st := 2#3, ph := Phase.done } ∧
    s.raiseError .invalidHex = { s with st := 3#3, ph := Phase.done } ∧
    (∀ cg cc : Word16, s.raiseError (.checksumMismatch cg cc) =
      { s with st := 4#3, cg := cg, cc := cc, ph := Phase.done }) ∧
    ∀ (e : ErrorClass) (i : Fin 16), (s.raiseError e).key[i] = 0x00#8

/-- R174, R176: a call that U.CHECK ends in an error leaves no partial result: `pm`, `H`, `nblk`, `blk` still
hold the zeros that START gave them, the digits and `n` stay, and `key` reads zero. -/
def Obligations.ErrorLeavesNoPartialResult : Prop :=
  ∀ s t : State, s.Inv → exec .uCheck s = .next t → t.ph = Phase.done →
    t.pm = Vector.replicate 32 0x00#8 ∧ t.H = zeroBlock ∧ t.nblk = 0#2 ∧ t.blk = 0#2 ∧
    t.n = s.n ∧ t.nib = s.nib ∧ t.key = zeroBlock ∧ (t.st = 2#3 ∨ t.st = 4#3)

/-- R102: every entry of the CRC table is eight bit steps of its index, and the table is linear over XOR. -/
def Obligations.CrcTableIsEightBitSteps : Prop :=
  (∀ i : Byte, romT i = shiftTimes 8 (i.setWidth 16)) ∧
  (∀ a b : Byte, romT (a ^^^ b) = romT a ^^^ romT b) ∧
  romT 0x00#8 = 0x0000#16 ∧ romT 0x01#8 = 0x1189#16 ∧ romT 0x80#8 = 0x8408#16 ∧ romT 0xFF#8 = 0x0F78#16

/-- R104: the byte step with the table and the byte step without it are the same function. -/
def Obligations.CrcStepNeedsNoTable : Prop :=
  ∀ (crc : Word16) (b : Byte), crcStep crc b = crcStepBits crc b

/-- R115: the residue of a byte sequence followed by its own checksum bytes. -/
def Obligations.CrcResidueOfACodeWord : Prop :=
  ∀ d : List Byte, crcRun (d ++ [(crcBytes d).1, (crcBytes d).2]) = 0xF0B8#16

/-- R111: the comparison passes exactly when `crc_final(d) = g1 ‖ g0`. -/
def Obligations.CheckPassesIffNumbersAgree : Prop :=
  ∀ s t : State, s.ph = Phase.check → legalCount s.n = true → exec .uCheck s = .next t →
    (t.ph = Phase.pad ↔
      crcFinal (secretOf s.nib (s.n.toNat / 2 - 2)) =
        byteAt s.nib (s.n.toNat / 2 - 1) ++ byteAt s.nib (s.n.toNat / 2 - 2))

/-- R116: from a code with a correct checksum, replacing one digit of the secret by a different digit value
always ends the call in ChecksumMismatch. -/
def Obligations.ChangedDigitIsDetected : Prop :=
  ∀ (s : State) (i : Nat) (v : Nibble), s.ph = Phase.check → legalCount s.n = true →
    checksumCorrect s.nib (s.n.toNat / 2 - 2) = true → i < s.n.toNat - 4 → v ≠ nibAt s.nib i →
    ∃ t : State, exec .uCheck { s with nib := s.nib.setIfInBounds i v } = .next t ∧
      t.ph = Phase.done ∧ t.st = Status.checksumMismatch

/-! ## The padding formatter -/

/-- R121: the number of zero bytes is the smallest that fills the last block, and its closed form. -/
def Obligations.ZeroCountIsSmallest : Prop :=
  ∀ L : Nat, (L + 1 + zeroCount L + 2) % 16 = 0 ∧ (∀ z : Nat, z < zeroCount L → (L + 1 + z + 2) % 16 ≠ 0) ∧
    (zeroCount L : Int) = (13 - (L : Int)) % 16

/-- R122, R123: the layout of the Padded Message, byte by byte, for every length of the secret. -/
def Obligations.PaddedMessageLayout : Prop :=
  ∀ d : List Byte,
    let L := d.length
    let P := L + 3 + zeroCount L
    let bitlen := BitVec.ofNat 16 ((8 * L) % 65536);
    (pad d).length = P ∧ P % 16 = 0 ∧
    (∀ i : Nat, i < L → (pad d)[i]? = d[i]?) ∧ (pad d)[L]? = some 0x80#8 ∧
    (∀ i : Nat, L + 1 ≤ i → i ≤ L + zeroCount L → (pad d)[i]? = some 0x00#8) ∧
    (pad d)[P - 2]? = some (bitlen.extractLsb' 8 8) ∧ (pad d)[P - 1]? = some (bitlen.extractLsb' 0 8)

/-- R124: the sizes for the four legal lengths, and the constant second block of a 16-byte secret. -/
def Obligations.PaddedSizesOfLegalLengths : Prop :=
  (zeroCount 6 = 7 ∧ paddedLen 6 = 16 ∧ bitLen 6 = 0x0030#16) ∧
  (zeroCount 8 = 5 ∧ paddedLen 8 = 16 ∧ bitLen 8 = 0x0040#16) ∧
  (zeroCount 12 = 1 ∧ paddedLen 12 = 16 ∧ bitLen 12 = 0x0060#16) ∧
  (zeroCount 16 = 13 ∧ paddedLen 16 = 32 ∧ bitLen 16 = 0x0080#16) ∧
  ∀ d : List Byte, d.length = 16 → (pad d).take 16 = d ∧
    (pad d).drop 16 = 0x80#8 :: List.replicate 14 0x00#8 ++ [0x80#8]

/-- R125: U.PAD writes the Padded Message and zeros after it, `nblk`, `blk`, `H` and `ph`, and nothing else. -/
def Obligations.PadWritesTheMessage : Prop :=
  ∀ s : State, s.ph = Phase.pad →
    (s.L.toNat = 6 ∨ s.L.toNat = 8 ∨ s.L.toNat = 12 ∨ s.L.toNat = 16) →
    let L := s.L.toNat
    let z := ((13 - (L : Int)) % 16).toNat
    let P := L + 3 + z
    let bitlen := BitVec.ofNat 16 (8 * L)
    ∃ t : State, exec .uPad s = .next t ∧
      t = { s with pm := t.pm, nblk := BitVec.ofNat 2 (P / 16), blk := 0#2,
                   H := Vector.replicate 16 0x00#8, ph := Phase.hash } ∧
      ∀ a : Nat, a < 32 → pmAt t.pm a =
        if a < L then byteAt s.nib a
        else if a = L then 0x80#8
        else if a = P - 2 then bitlen.extractLsb' 8 8
        else if a = P - 1 then bitlen.extractLsb' 0 8
        else 0x00#8

/-- Row U10 of 93_implementation_defined.md (treatment: refuse): U.PAD with an `L` that is not legal.
The refusal is the model's form of "refuse" (log 10). -/
def Obligations.PadRefusesOtherLengths : Prop :=
  ∀ s : State, s.ph = Phase.pad →
    ¬ (s.L.toNat = 6 ∨ s.L.toNat = 8 ∨ s.L.toNat = 12 ∨ s.L.toNat = 16) →
    exec .uPad s = .refused .padIllegalLength

/-! ## The encryptor and the compression loop -/

/-- R132, R133: the S-box table is the S-box formula over the field's inverse, a permutation, with no entry
equal to its index or to the complement of its index. -/
def Obligations.SBoxTableIsTheFormula : Prop :=
  (inv 0x00#8 = 0x00#8 ∧ ∀ x : Byte, x ≠ 0x00#8 → mul x (inv x) = 0x01#8) ∧
  (∀ x : Byte, romS x = sboxFormula x) ∧ (∀ x y : Byte, romS x = romS y → x = y) ∧
  (∀ x : Byte, romS x ≠ x ∧ romS x ≠ ~~~ x) ∧
  romS 0x00#8 = 0x63#8 ∧ romS 0x01#8 = 0x7C#8 ∧ romS 0x53#8 = 0xED#8 ∧ romS 0xFF#8 = 0x16#8

/-- The published examples of R131, R140, R141: field products, one mixed column, two encryptions. -/
def Obligations.EncryptorGivesPublishedExamples : Prop :=
  xtime 0x57#8 = 0xAE#8 ∧ mul 0x57#8 0x13#8 = 0xFE#8 ∧ mul 0x57#8 0x83#8 = 0xC1#8 ∧
  (List.range 4).map (mixColumn 0xD4#8 0xBF#8 0x5D#8 0x30#8) = [0x04#8, 0x66#8, 0x81#8, 0xE5#8] ∧
  aes128Enc zeroBlock zeroBlock =
    #v[0x66, 0xE9, 0x4B, 0xD4, 0xEF, 0x8A, 0x2C, 0x3B, 0x88, 0x4C, 0xFA, 0x59, 0xCA, 0x34, 0x2B, 0x2E] ∧
  aes128Enc (Vector.ofFn fun i => BitVec.ofNat 8 i.val) (Vector.ofFn fun i => BitVec.ofNat 8 (17 * i.val)) =
    #v[0x69, 0xC4, 0xE0, 0xD8, 0x6A, 0x7B, 0x04, 0x30, 0xD8, 0xCD, 0xB7, 0x80, 0x70, 0xB4, 0xC5, 0x5A]

/-- R130, R137 to R141: under one key, different blocks have different ciphertexts (every transformation of
the rounds is one-to-one). -/
def Obligations.EncryptionIsOneToOne : Prop :=
  ∀ K X X' : Block, aes128Enc K X = aes128Enc K X' → X = X'

/-- R151: the ciphertext, under the Chaining State as key, XORed byte by byte with the message block. -/
def Obligations.CompressionXorsTheMessageBlock : Prop :=
  ∀ (h m : Block) (i : Fin 16), (compress h m)[i] = (aes128Enc h m)[i] ^^^ m[i]

/-- R150, R152, R155, R158: `derive` uses the cipher once for 6, 8 and 12 bytes, under the zero key, and
twice for 16, the second block being constant. -/
def Obligations.DeriveUsesOneOrTwoBlocks : Prop :=
  ∀ d : List Byte,
    (d.length = 6 ∨ d.length = 8 ∨ d.length = 12 →
      derive d = compress zeroBlock (Vector.ofFn fun i => (pad d).getD i.val 0x00#8)) ∧
    (d.length = 16 →
      derive d = compress (compress zeroBlock (Vector.ofFn fun i => d.getD i.val 0x00#8))
        #v[0x80, 0, 0, 0, 0, 0, 0, 0, 0, 0, 0, 0, 0, 0, 0, 0x80])

/-- R154: U.HASH compresses the block at `16 * blk`, adds 1 to `blk`, and on the last block writes OK and
DONE; nothing else changes. -/
def Obligations.HashCompressesOneBlock : Prop :=
  ∀ s : State, s.ph = Phase.hash → s.blk.toNat < s.nblk.toNat → s.blk.toNat ≤ 1 →
    ∃ t : State, exec .uHash s = .next t ∧
      t = { s with H := t.H, blk := s.blk + 1#2, st := t.st, ph := t.ph } ∧
      t.blk.toNat = s.blk.toNat + 1 ∧
      (∀ i : Fin 16, t.H[i] =
        (aes128Enc s.H (Vector.ofFn fun j => pmAt s.pm (16 * s.blk.toNat + j.val)))[i] ^^^
          pmAt s.pm (16 * s.blk.toNat + i.val)) ∧
      (s.blk.toNat + 1 = s.nblk.toNat → t.st = Status.ok ∧ t.ph = Phase.done) ∧
      (s.blk.toNat + 1 ≠ s.nblk.toNat → t.st = s.st ∧ t.ph = Phase.hash)

/-- Row U11 of 93_implementation_defined.md (treatment: refuse) and log 4 (the model's choice for
`nblk` = 3): U.HASH with no block left, or with a block outside `pm`. The first is log 10. -/
def Obligations.HashRefusesWithoutABlock : Prop :=
  ∀ s : State, s.ph = Phase.hash →
    (s.nblk.toNat ≤ s.blk.toNat → exec .uHash s = .refused .hashNoBlockLeft) ∧
    (s.blk = 2#2 → s.nblk = 3#2 → exec .uHash s = .refused .hashBlockOutsideBuffer)

/-- Frame of U.CHECK, U.PAD and U.HASH, from the lists "Registers written" of R113, R125 and R154. -/
def Obligations.MicroOpFrame : Prop :=
  ∀ (s t : State) (i : Instr), i.isToken = false → exec i s = .next t →
    t.n = s.n ∧ t.nib = s.nib ∧ t.perr = s.perr ∧ t.inputs = s.inputs ∧
    (i = .uCheck → t.pm = s.pm ∧ t.H = s.H ∧ t.nblk = s.nblk ∧ t.blk = s.blk) ∧
    (i = .uPad → t.L = s.L ∧ t.crc = s.crc ∧ t.st = s.st ∧ t.cg = s.cg ∧ t.cc = s.cc) ∧
    (i = .uHash → t.L = s.L ∧ t.crc = s.crc ∧ t.pm = s.pm ∧ t.nblk = s.nblk ∧ t.cg = s.cg ∧ t.cc = s.cc)

/-! ## Ports -/

/-- R23: each output port as a function of the registers. -/
def Obligations.PortsReadTheRegisters : Prop :=
  ∀ s : State,
    (s.ready = true ↔ s.ph = Phase.idle ∨ s.ph = Phase.collect ∨ s.ph = Phase.done) ∧
    (s.done = true ↔ s.ph = Phase.done) ∧ s.status = s.st ∧ s.perrPort = s.perr ∧
    (s.st = Status.ok → ∀ i : Fin 16, s.key[i] = s.H[i]) ∧
    (s.st ≠ Status.ok → ∀ i : Fin 16, s.key[i] = 0x00#8) ∧ s.crcGiven = s.cg ∧ s.crcCalc = s.cc

/-- R24, R153: in a state that a run reaches, with `status` = OK the call is over and `key` is the Link Key of the
secret that was checked; with any other `status`, and in the HASH phase while `H` holds an intermediate value,
`key` reads zero; so `key` is anything but zero only after OK.
The samples of the input ports are `inputs` (log 1). -/
def Obligations.KeyShownOnlyAfterOk : Prop :=
  ∀ s : State, Reachable s →
    (s.status = Status.ok → s.done = true ∧ s.key = derive s.secret) ∧
    (s.status ≠ Status.ok → s.key = zeroBlock) ∧
    (s.key ≠ zeroBlock → s.done = true ∧ s.status = Status.ok ∧ s.key = derive s.secret) ∧
    (s.ph = Phase.hash → s.key = zeroBlock)

/-- R51: in the flattened key, `key[0]` is the most significant byte. -/
def Obligations.FlattenedKeyByteOrder : Prop :=
  ∀ (s : State) (i : Fin 16), (flattenBlock s.key).extractLsb' (120 - 8 * i.val) 8 = s.key[i]

/-! ## The whole machine -/

/-- The invariant holds at reset, whatever the host will pass.
The samples of the input ports are `inputs` (log 1). -/
def Obligations.InvariantAtReset : Prop :=
  ∀ ins : List HostCycle, State.Inv { State.reset with inputs := ins }

/-- Every step from a state that meets the invariant gives a state that meets it (R29 and the step rules). -/
def Obligations.EveryStepKeepsInvariant : Prop :=
  ∀ s t : State, s.Inv → step s = .next t → t.Inv

/-- From a state that meets the invariant a step always answers a next state: no stuck phase, no refusal
(R29 (a), (f), (g); R159, R200).
The samples of the input ports are `inputs` (log 1). -/
def Obligations.StepAlwaysCompletes : Prop :=
  ∀ s : State, s.Inv → ∃ t : State, step s = .next t

/-- R29: the nine listed facts hold in every state reachable from reset.
The samples of the input ports are `inputs` (log 1). -/
def Obligations.ReachableStatesMeetListedFacts : Prop :=
  ∀ s : State, Reachable s → s.ListedFacts

/-- R31: a call that begins with START does not depend on what came before it.
The samples of the input ports are `inputs` (log 1). -/
def Obligations.CallsAreIndependent : Prop :=
  ∀ (s s' : State) (rest : List HostCycle) (k : Nat), s.ready = true → s'.ready = true →
    s.inputs = HostCycle.offer (tokenWord 0b00#2 0x00#8) :: rest → s'.inputs = s.inputs →
    Host.Core.run core (k + 1) s = Host.Core.run core (k + 1) s'

/-- R22: no rule reads `perr`: two states alike but for `perr` take steps alike but for `perr`. -/
def Obligations.PerrInfluencesNothing : Prop :=
  ∀ (s : State) (b : Bool), outcomesEqButPerr (step s) (step { s with perr := b })

/-- R201: from CHECK the controller reaches DONE with no action of the host, in 1 step on an error, 3 for a
secret of 6, 8 or 12 bytes, 4 for one of 16, unless reset comes first.
The samples of the input ports are `inputs` (log 1). -/
def Obligations.ControllerReachesDone : Prop :=
  ∀ s : State, s.Inv → s.ph = Phase.check → (∀ c ∈ s.inputs, c.rst = false) →
    ∃ (k : Nat) (t : State), Host.Core.run core k s = .next t ∧ t.ph = Phase.done ∧
      (∀ (j : Nat) (u : State), j < k → Host.Core.run core j s = .next u → u.ph ≠ Phase.done) ∧
      (t.st ≠ Status.ok → k = 1) ∧
      (t.st = Status.ok → s.n.toNat = 16 ∨ s.n.toNat = 20 ∨ s.n.toNat = 28 → k = 3) ∧
      (t.st = Status.ok → s.n.toNat = 36 → k = 4)

/-- R157: the core computes `decode`. The host passes START, then `mid` (CHAR tokens, reserved tokens and idle
cycles), then END, then nothing; the controller takes the steps of `controllerOps` and the core stops in DONE
with the ports of the table.
The samples of the input ports are `inputs` (log 1). -/
def Obligations.RunComputesDecode : Prop :=
  ∀ (s : State) (mid : List HostCycle), s.ready = true → (∀ c ∈ mid, c.insideCall = true) →
    s.inputs = HostCycle.offer (tokenWord 0b00#2 0x00#8) :: mid ++
      [HostCycle.offer (tokenWord 0b10#2 0x00#8)] →
    let r := installDecode (charsOf mid)
    let ops := controllerOps (charsOf mid)
    ∃ u t : State, Host.Core.run core (mid.length + 2) s = .next u ∧ u.ph = Phase.check ∧
      instrTrace ops.length u = ops ∧ Host.Core.run core ops.length u = .next t ∧
      t.ph = Phase.done ∧ t.status = r.status ∧ t.key = r.key ∧ t.crcGiven = r.crcGiven ∧
      t.crcCalc = r.crcCalc ∧ t.perrPort = anyReserved mid ∧ step t = .next t
end

