-- ==== Sys2Proof/Laws/State.lean ====
section
/-! SUPPORT. One lemma per field per state update, so that no proof unfolds a record update. -/

namespace Sys2Proof.Machine

/-! ## The codes as literals, the one spelling that simp computes with -/

@[simp] theorem Phase.idle_eq : Phase.idle = 0#3 := rfl
@[simp] theorem Phase.collect_eq : Phase.collect = 1#3 := rfl
@[simp] theorem Phase.check_eq : Phase.check = 2#3 := rfl
@[simp] theorem Phase.pad_eq : Phase.pad = 3#3 := rfl
@[simp] theorem Phase.hash_eq : Phase.hash = 4#3 := rfl
@[simp] theorem Phase.done_eq : Phase.done = 5#3 := rfl
@[simp] theorem Status.none_eq : Status.none = 0#3 := rfl
@[simp] theorem Status.ok_eq : Status.ok = 1#3 := rfl
@[simp] theorem Status.invalidLength_eq : Status.invalidLength = 2#3 := rfl
@[simp] theorem Status.invalidHex_eq : Status.invalidHex = 3#3 := rfl
@[simp] theorem Status.checksumMismatch_eq : Status.checksumMismatch = 4#3 := rfl

/-! ## `popInput` -/

@[simp] theorem State.popInput_ph (s : State) : s.popInput.ph = s.ph := rfl
@[simp] theorem State.popInput_n (s : State) : s.popInput.n = s.n := rfl
@[simp] theorem State.popInput_nib (s : State) : s.popInput.nib = s.nib := rfl
@[simp] theorem State.popInput_L (s : State) : s.popInput.L = s.L := rfl
@[simp] theorem State.popInput_crc (s : State) : s.popInput.crc = s.crc := rfl
@[simp] theorem State.popInput_pm (s : State) : s.popInput.pm = s.pm := rfl
@[simp] theorem State.popInput_nblk (s : State) : s.popInput.nblk = s.nblk := rfl
@[simp] theorem State.popInput_blk (s : State) : s.popInput.blk = s.blk := rfl
@[simp] theorem State.popInput_H (s : State) : s.popInput.H = s.H := rfl
@[simp] theorem State.popInput_st (s : State) : s.popInput.st = s.st := rfl
@[simp] theorem State.popInput_cg (s : State) : s.popInput.cg = s.cg := rfl
@[simp] theorem State.popInput_cc (s : State) : s.popInput.cc = s.cc := rfl
@[simp] theorem State.popInput_perr (s : State) : s.popInput.perr = s.perr := rfl
@[simp] theorem State.popInput_inputs (s : State) : s.popInput.inputs = s.inputs.tail := rfl

/-! ## `goPhase` -/

@[simp] theorem State.goPhase_ph (s : State) (p : PhaseWord) : (s.goPhase p).ph = p := rfl
@[simp] theorem State.goPhase_n (s : State) (p : PhaseWord) : (s.goPhase p).n = s.n := rfl
@[simp] theorem State.goPhase_nib (s : State) (p : PhaseWord) : (s.goPhase p).nib = s.nib := rfl
@[simp] theorem State.goPhase_L (s : State) (p : PhaseWord) : (s.goPhase p).L = s.L := rfl
@[simp] theorem State.goPhase_crc (s : State) (p : PhaseWord) : (s.goPhase p).crc = s.crc := rfl
@[simp] theorem State.goPhase_pm (s : State) (p : PhaseWord) : (s.goPhase p).pm = s.pm := rfl
@[simp] theorem State.goPhase_nblk (s : State) (p : PhaseWord) : (s.goPhase p).nblk = s.nblk := rfl
@[simp] theorem State.goPhase_blk (s : State) (p : PhaseWord) : (s.goPhase p).blk = s.blk := rfl
@[simp] theorem State.goPhase_H (s : State) (p : PhaseWord) : (s.goPhase p).H = s.H := rfl
@[simp] theorem State.goPhase_st (s : State) (p : PhaseWord) : (s.goPhase p).st = s.st := rfl
@[simp] theorem State.goPhase_cg (s : State) (p : PhaseWord) : (s.goPhase p).cg = s.cg := rfl
@[simp] theorem State.goPhase_cc (s : State) (p : PhaseWord) : (s.goPhase p).cc = s.cc := rfl
@[simp] theorem State.goPhase_perr (s : State) (p : PhaseWord) : (s.goPhase p).perr = s.perr := rfl
@[simp] theorem State.goPhase_inputs (s : State) (p : PhaseWord) : (s.goPhase p).inputs = s.inputs := rfl

/-! ## `storeDigit` -/

@[simp] theorem State.storeDigit_ph (s : State) (v : Nibble) : (s.storeDigit v).ph = s.ph := rfl
@[simp] theorem State.storeDigit_n (s : State) (v : Nibble) : (s.storeDigit v).n = s.n + 1#6 := rfl
@[simp] theorem State.storeDigit_nib (s : State) (v : Nibble) : (s.storeDigit v).nib = s.nib.setIfInBounds s.n.toNat v := rfl
@[simp] theorem State.storeDigit_L (s : State) (v : Nibble) : (s.storeDigit v).L = s.L := rfl
@[simp] theorem State.storeDigit_crc (s : State) (v : Nibble) : (s.storeDigit v).crc = s.crc := rfl
@[simp] theorem State.storeDigit_pm (s : State) (v : Nibble) : (s.storeDigit v).pm = s.pm := rfl
@[simp] theorem State.storeDigit_nblk (s : State) (v : Nibble) : (s.storeDigit v).nblk = s.nblk := rfl
@[simp] theorem State.storeDigit_blk (s : State) (v : Nibble) : (s.storeDigit v).blk = s.blk := rfl
@[simp] theorem State.storeDigit_H (s : State) (v : Nibble) : (s.storeDigit v).H = s.H := rfl
@[simp] theorem State.storeDigit_st (s : State) (v : Nibble) : (s.storeDigit v).st = s.st := rfl
@[simp] theorem State.storeDigit_cg (s : State) (v : Nibble) : (s.storeDigit v).cg = s.cg := rfl
@[simp] theorem State.storeDigit_cc (s : State) (v : Nibble) : (s.storeDigit v).cc = s.cc := rfl
@[simp] theorem State.storeDigit_perr (s : State) (v : Nibble) : (s.storeDigit v).perr = s.perr := rfl
@[simp] theorem State.storeDigit_inputs (s : State) (v : Nibble) : (s.storeDigit v).inputs = s.inputs := rfl

/-! ## `saturate` -/

@[simp] theorem State.saturate_ph (s : State) : s.saturate.ph = s.ph := rfl
@[simp] theorem State.saturate_n (s : State) : s.saturate.n = nSat := rfl
@[simp] theorem State.saturate_nib (s : State) : s.saturate.nib = s.nib := rfl
@[simp] theorem State.saturate_L (s : State) : s.saturate.L = s.L := rfl
@[simp] theorem State.saturate_crc (s : State) : s.saturate.crc = s.crc := rfl
@[simp] theorem State.saturate_pm (s : State) : s.saturate.pm = s.pm := rfl
@[simp] theorem State.saturate_nblk (s : State) : s.saturate.nblk = s.nblk := rfl
@[simp] theorem State.saturate_blk (s : State) : s.saturate.blk = s.blk := rfl
@[simp] theorem State.saturate_H (s : State) : s.saturate.H = s.H := rfl
@[simp] theorem State.saturate_st (s : State) : s.saturate.st = s.st := rfl
@[simp] theorem State.saturate_cg (s : State) : s.saturate.cg = s.cg := rfl
@[simp] theorem State.saturate_cc (s : State) : s.saturate.cc = s.cc := rfl
@[simp] theorem State.saturate_perr (s : State) : s.saturate.perr = s.perr := rfl
@[simp] theorem State.saturate_inputs (s : State) : s.saturate.inputs = s.inputs := rfl

/-! ## `setPerr` -/

@[simp] theorem State.setPerr_ph (s : State) : s.setPerr.ph = s.ph := rfl
@[simp] theorem State.setPerr_n (s : State) : s.setPerr.n = s.n := rfl
@[simp] theorem State.setPerr_nib (s : State) : s.setPerr.nib = s.nib := rfl
@[simp] theorem State.setPerr_L (s : State) : s.setPerr.L = s.L := rfl
@[simp] theorem State.setPerr_crc (s : State) : s.setPerr.crc = s.crc := rfl
@[simp] theorem State.setPerr_pm (s : State) : s.setPerr.pm = s.pm := rfl
@[simp] theorem State.setPerr_nblk (s : State) : s.setPerr.nblk = s.nblk := rfl
@[simp] theorem State.setPerr_blk (s : State) : s.setPerr.blk = s.blk := rfl
@[simp] theorem State.setPerr_H (s : State) : s.setPerr.H = s.H := rfl
@[simp] theorem State.setPerr_st (s : State) : s.setPerr.st = s.st := rfl
@[simp] theorem State.setPerr_cg (s : State) : s.setPerr.cg = s.cg := rfl
@[simp] theorem State.setPerr_cc (s : State) : s.setPerr.cc = s.cc := rfl
@[simp] theorem State.setPerr_perr (s : State) : s.setPerr.perr = true := rfl
@[simp] theorem State.setPerr_inputs (s : State) : s.setPerr.inputs = s.inputs := rfl

/-! ## `padMessage` -/

@[simp] theorem State.padMessage_ph (s : State) : s.padMessage.ph = Phase.hash := rfl
@[simp] theorem State.padMessage_n (s : State) : s.padMessage.n = s.n := rfl
@[simp] theorem State.padMessage_nib (s : State) : s.padMessage.nib = s.nib := rfl
@[simp] theorem State.padMessage_L (s : State) : s.padMessage.L = s.L := rfl
@[simp] theorem State.padMessage_crc (s : State) : s.padMessage.crc = s.crc := rfl
@[simp] theorem State.padMessage_pm (s : State) : s.padMessage.pm = padBuffer s.pm (secretOf s.nib s.L.toNat) := rfl
@[simp] theorem State.padMessage_nblk (s : State) : s.padMessage.nblk = BitVec.ofNat 2 (paddedLen s.L.toNat / 16) := rfl
@[simp] theorem State.padMessage_blk (s : State) : s.padMessage.blk = 0#2 := rfl
@[simp] theorem State.padMessage_H (s : State) : s.padMessage.H = zeroBlock := rfl
@[simp] theorem State.padMessage_st (s : State) : s.padMessage.st = s.st := rfl
@[simp] theorem State.padMessage_cg (s : State) : s.padMessage.cg = s.cg := rfl
@[simp] theorem State.padMessage_cc (s : State) : s.padMessage.cc = s.cc := rfl
@[simp] theorem State.padMessage_perr (s : State) : s.padMessage.perr = s.perr := rfl
@[simp] theorem State.padMessage_inputs (s : State) : s.padMessage.inputs = s.inputs := rfl

/-! ## `raiseError` -/

@[simp] theorem State.raiseError_ph (s : State) (e : ErrorClass) : (s.raiseError e).ph = Phase.done := by
  cases e <;> rfl
@[simp] theorem State.raiseError_n (s : State) (e : ErrorClass) : (s.raiseError e).n = s.n := by
  cases e <;> rfl
@[simp] theorem State.raiseError_nib (s : State) (e : ErrorClass) : (s.raiseError e).nib = s.nib := by
  cases e <;> rfl
@[simp] theorem State.raiseError_L (s : State) (e : ErrorClass) : (s.raiseError e).L = s.L := by
  cases e <;> rfl
@[simp] theorem State.raiseError_crc (s : State) (e : ErrorClass) : (s.raiseError e).crc = s.crc := by
  cases e <;> rfl
@[simp] theorem State.raiseError_pm (s : State) (e : ErrorClass) : (s.raiseError e).pm = s.pm := by
  cases e <;> rfl
@[simp] theorem State.raiseError_nblk (s : State) (e : ErrorClass) : (s.raiseError e).nblk = s.nblk := by
  cases e <;> rfl
@[simp] theorem State.raiseError_blk (s : State) (e : ErrorClass) : (s.raiseError e).blk = s.blk := by
  cases e <;> rfl
@[simp] theorem State.raiseError_H (s : State) (e : ErrorClass) : (s.raiseError e).H = s.H := by
  cases e <;> rfl
@[simp] theorem State.raiseError_st (s : State) (e : ErrorClass) : (s.raiseError e).st = errorCode e := by
  cases e <;> rfl
@[simp] theorem State.raiseError_perr (s : State) (e : ErrorClass) : (s.raiseError e).perr = s.perr := by
  cases e <;> rfl
@[simp] theorem State.raiseError_inputs (s : State) (e : ErrorClass) : (s.raiseError e).inputs = s.inputs := by
  cases e <;> rfl
@[simp] theorem State.raiseError_length_cg (s : State) : (s.raiseError .invalidLength).cg = s.cg := rfl
@[simp] theorem State.raiseError_hex_cg (s : State) : (s.raiseError .invalidHex).cg = s.cg := rfl
@[simp] theorem State.raiseError_mismatch_cg (s : State) (cg cc : Word16) :
    (s.raiseError (.checksumMismatch cg cc)).cg = cg := rfl
@[simp] theorem State.raiseError_length_cc (s : State) : (s.raiseError .invalidLength).cc = s.cc := rfl
@[simp] theorem State.raiseError_hex_cc (s : State) : (s.raiseError .invalidHex).cc = s.cc := rfl
@[simp] theorem State.raiseError_mismatch_cc (s : State) (cg cc : Word16) :
    (s.raiseError (.checksumMismatch cg cc)).cc = cc := rfl

/-! ## `beginCall` and `resetEvent` -/

@[simp] theorem State.beginCall_ph (s : State) : s.beginCall.ph = Phase.collect := rfl
@[simp] theorem State.beginCall_n (s : State) : s.beginCall.n = 0#6 := rfl
@[simp] theorem State.beginCall_nib (s : State) : s.beginCall.nib = Vector.replicate 36 0#4 := rfl
@[simp] theorem State.beginCall_L (s : State) : s.beginCall.L = 0#5 := rfl
@[simp] theorem State.beginCall_crc (s : State) : s.beginCall.crc = crcStart := rfl
@[simp] theorem State.beginCall_pm (s : State) : s.beginCall.pm = Vector.replicate 32 0x00#8 := rfl
@[simp] theorem State.beginCall_nblk (s : State) : s.beginCall.nblk = 0#2 := rfl
@[simp] theorem State.beginCall_blk (s : State) : s.beginCall.blk = 0#2 := rfl
@[simp] theorem State.beginCall_H (s : State) : s.beginCall.H = zeroBlock := rfl
@[simp] theorem State.beginCall_st (s : State) : s.beginCall.st = Status.none := rfl
@[simp] theorem State.beginCall_cg (s : State) : s.beginCall.cg = 0x0000#16 := rfl
@[simp] theorem State.beginCall_cc (s : State) : s.beginCall.cc = 0x0000#16 := rfl
@[simp] theorem State.beginCall_perr (s : State) : s.beginCall.perr = false := rfl
@[simp] theorem State.beginCall_inputs (s : State) : s.beginCall.inputs = s.inputs := rfl

@[simp] theorem State.resetEvent_ph (s : State) : s.resetEvent.ph = Phase.idle := rfl
@[simp] theorem State.resetEvent_n (s : State) : s.resetEvent.n = 0#6 := rfl
@[simp] theorem State.resetEvent_nib (s : State) : s.resetEvent.nib = Vector.replicate 36 0#4 := rfl
@[simp] theorem State.resetEvent_L (s : State) : s.resetEvent.L = 0#5 := rfl
@[simp] theorem State.resetEvent_crc (s : State) : s.resetEvent.crc = crcStart := rfl
@[simp] theorem State.resetEvent_pm (s : State) : s.resetEvent.pm = Vector.replicate 32 0x00#8 := rfl
@[simp] theorem State.resetEvent_nblk (s : State) : s.resetEvent.nblk = 0#2 := rfl
@[simp] theorem State.resetEvent_blk (s : State) : s.resetEvent.blk = 0#2 := rfl
@[simp] theorem State.resetEvent_H (s : State) : s.resetEvent.H = zeroBlock := rfl
@[simp] theorem State.resetEvent_st (s : State) : s.resetEvent.st = Status.none := rfl
@[simp] theorem State.resetEvent_cg (s : State) : s.resetEvent.cg = 0x0000#16 := rfl
@[simp] theorem State.resetEvent_cc (s : State) : s.resetEvent.cc = 0x0000#16 := rfl
@[simp] theorem State.resetEvent_perr (s : State) : s.resetEvent.perr = false := rfl
@[simp] theorem State.resetEvent_inputs (s : State) : s.resetEvent.inputs = s.inputs := rfl

@[simp] theorem State.reset_ph : State.reset.ph = Phase.idle := rfl
@[simp] theorem State.reset_n : State.reset.n = 0#6 := rfl
@[simp] theorem State.reset_nib : State.reset.nib = Vector.replicate 36 0#4 := rfl
@[simp] theorem State.reset_L : State.reset.L = 0#5 := rfl
@[simp] theorem State.reset_crc : State.reset.crc = crcStart := rfl
@[simp] theorem State.reset_pm : State.reset.pm = Vector.replicate 32 0x00#8 := rfl
@[simp] theorem State.reset_nblk : State.reset.nblk = 0#2 := rfl
@[simp] theorem State.reset_blk : State.reset.blk = 0#2 := rfl
@[simp] theorem State.reset_H : State.reset.H = zeroBlock := rfl
@[simp] theorem State.reset_st : State.reset.st = Status.none := rfl
@[simp] theorem State.reset_cg : State.reset.cg = 0x0000#16 := rfl
@[simp] theorem State.reset_cc : State.reset.cc = 0x0000#16 := rfl
@[simp] theorem State.reset_perr : State.reset.perr = false := rfl
@[simp] theorem State.reset_inputs : State.reset.inputs = [] := rfl

/-- START writes what reset writes, but for `ph` (R81, R30). -/
theorem State.beginCall_eq_reset (s : State) :
    s.beginCall = { State.reset with ph := Phase.collect, inputs := s.inputs } := rfl

end Sys2Proof.Machine
end

