-- ==== Sys2Proof/Laws/Ops.lean ====
section
/-! SUPPORT. One lemma for each shared operation, saying all that it can do; provers cite these instead of
unfolding the operation. -/

namespace Sys2Proof.Machine

/-! ## Ports and inputs -/

@[simp] theorem State.ready_iff (s : State) :
    s.ready = true ↔ s.ph = Phase.idle ∨ s.ph = Phase.collect ∨ s.ph = Phase.done := by
  simp [State.ready, or_assoc]

theorem State.not_ready_iff (s : State) :
    s.ready = false ↔ s.ph ≠ Phase.idle ∧ s.ph ≠ Phase.collect ∧ s.ph ≠ Phase.done := by
  simp [State.ready, and_assoc]

@[simp] theorem State.done_iff (s : State) : s.done = true ↔ s.ph = Phase.done := by
  simp [State.done]

@[simp] theorem State.popInput_ready (s : State) : s.popInput.ready = s.ready := rfl

theorem State.input_of_cons (s : State) (c : HostCycle) (r : List HostCycle) (h : s.inputs = c :: r) :
    s.input = c := by
  simp [State.input, h]

theorem State.input_of_nil (s : State) (h : s.inputs = []) : s.input = HostCycle.idle := by
  simp [State.input, h]

theorem State.key_of_ok {s : State} (h : s.st = Status.ok) : s.key = s.H := by simp [State.key, h]

theorem State.key_of_not_ok {s : State} (h : s.st ≠ Status.ok) : s.key = zeroBlock := by
  simp [State.key, h]

@[simp] theorem zeroBlock_getElem (i : Nat) (h : i < 16) : zeroBlock[i] = 0x00#8 := by
  simp [zeroBlock]

/-! ## The arrays -/

theorem nibAt_of_lt (nib : Vector Nibble 36) {i : Nat} (h : i < 36) : nibAt nib i = nib[i] := by
  simp [nibAt, h]

theorem nibAt_of_ge (nib : Vector Nibble 36) {i : Nat} (h : 36 ≤ i) : nibAt nib i = 0#4 := by
  simp [nibAt, show ¬ i < 36 by omega]

theorem pmAt_of_lt (pm : Vector Byte 32) {a : Nat} (h : a < 32) : pmAt pm a = pm[a] := by
  simp [pmAt, h]

@[simp] theorem nibAt_zero (i : Nat) : nibAt (Vector.replicate 36 0#4) i = 0#4 := by
  by_cases h : i < 36 <;> simp [nibAt, h]

@[simp] theorem pmAt_zero (a : Nat) : pmAt (Vector.replicate 32 0x00#8) a = 0x00#8 := by
  by_cases h : a < 32 <;> simp [pmAt, h]

/-- Reading the digit buffer after a digit is stored: the stored digit at its index, every other as before. -/
theorem nibAt_set (nib : Vector Nibble 36) (k i : Nat) (v : Nibble) (hk : k < 36) :
    nibAt (nib.setIfInBounds k v) i = if i = k then v else nibAt nib i := by
  by_cases hi : i < 36
  · simp only [nibAt_of_lt _ hi, Vector.getElem_setIfInBounds]
    split <;> split <;> first | rfl | omega
  · rw [nibAt_of_ge _ (by omega), nibAt_of_ge _ (by omega), if_neg (by omega)]

@[simp] theorem memReadBlock_getElem (pm : Vector Byte 32) (a i : Nat) (h : i < 16) :
    (memReadBlock pm a)[i] = pmAt pm (a + i) := by
  simp [memReadBlock]

/-- MemWrite then read of one byte: the byte written inside the written range, the old byte outside. -/
theorem pmAt_memWrite (pm : Vector Byte 32) (a i : Nat) (v : List Byte) (hi : i < 32) :
    pmAt (memWrite pm a v) i = if a ≤ i ∧ i < a + v.length then v.getD (i - a) 0x00#8 else pmAt pm i := by
  simp [pmAt_of_lt, hi, memWrite]

theorem pmAt_clearFrom (pm : Vector Byte 32) (a i : Nat) (hi : i < 32) :
    pmAt (clearFrom pm a) i = if a ≤ i then 0x00#8 else pmAt pm i := by
  simp [pmAt_of_lt, hi, clearFrom]

@[simp] theorem xorBlock_getElem (a b : Block) (i : Nat) (h : i < 16) :
    (xorBlock a b)[i] = a[i] ^^^ b[i] := by
  simp [xorBlock]

/-- The byte view as a number (R42). -/
theorem byteAt_toNat (nib : Vector Nibble 36) (i : Nat) :
    (byteAt nib i).toNat = (nibAt nib (2 * i)).toNat * 16 + (nibAt nib (2 * i + 1)).toNat := by
  have := (nibAt nib (2 * i + 1)).isLt
  rw [byteAt, BitVec.toNat_append, ← Nat.shiftLeft_add_eq_or_of_lt this, Nat.shiftLeft_eq]

@[simp] theorem secretOf_length (nib : Vector Nibble 36) (L : Nat) : (secretOf nib L).length = L := by
  simp [secretOf]

theorem secretOf_getElem (nib : Vector Nibble 36) (L i : Nat) (h : i < L) :
    (secretOf nib L)[i]'(by simpa using h) = byteAt nib i := by
  simp [secretOf]

theorem legalCount_iff (n : BitVec 6) :
    legalCount n = true ↔ n.toNat = 16 ∨ n.toNat = 20 ∨ n.toNat = 28 ∨ n.toNat = 36 := by
  simp [legalCount, ← BitVec.toNat_inj, or_assoc]

theorem legalLen_iff (L : BitVec 5) :
    legalLen L = true ↔ L.toNat = 6 ∨ L.toNat = 8 ∨ L.toNat = 12 ∨ L.toNat = 16 := by
  simp [legalLen, ← BitVec.toNat_inj, or_assoc]

/-- R110 for the legal counts. -/
theorem secretLen_toNat {n : BitVec 6} (h : legalCount n = true) : (secretLen n).toNat = n.toNat / 2 - 2 := by
  revert h; revert n; decide

/-! ## When a step is enabled -/

/-- All that a token can do: its effect when `ready` = 1, nothing when `ready` = 0. -/
theorem hostStep_next {f : State → State} {s t : State} (h : hostStep f s = .next t) :
    (s.ready = true ∧ t = f s) ∨ (s.ready = false ∧ t = s) := by
  unfold hostStep at h
  split at h
  · exact .inl ⟨‹_›, by injection h with h; exact h.symm⟩
  · exact .inr ⟨Bool.eq_false_iff.mpr ‹_›, by injection h with h; exact h.symm⟩

theorem hostStep_of_ready {f : State → State} {s : State} (h : s.ready = true) :
    hostStep f s = .next (f s) := by
  simp only [hostStep, h, if_true]

theorem hostStep_of_busy {f : State → State} {s : State} (h : s.ready = false) :
    hostStep f s = .next s := by
  simp [hostStep, h]

theorem controllerStep_of_phase {p : PhaseWord} {f : State → Host.Outcome State Fault Refusal} {s : State}
    (h : s.ph = p) : controllerStep p f s = f s := by
  simp [controllerStep, h]

theorem controllerStep_of_other {p : PhaseWord} {f : State → Host.Outcome State Fault Refusal} {s : State}
    (h : s.ph ≠ p) : controllerStep p f s = .refused .microOpNotEnabled := by
  simp [controllerStep, h]

/-- A micro-operation that answers a next state was selected by its phase. -/
theorem controllerStep_next {p : PhaseWord} {f : State → Host.Outcome State Fault Refusal} {s t : State}
    (h : controllerStep p f s = .next t) : s.ph = p ∧ f s = .next t := by
  unfold controllerStep at h
  split at h
  · exact ⟨‹_›, h⟩
  · cases h

/-! ## The effects of CHAR and of a token out of place -/

/-- All that CHAR can do in COLLECT (R82, R83, R84). -/
theorem State.takeChar_cases (c : Byte) (s : State) :
    (hexval c = none ∧ s.takeChar c = s) ∨
    (∃ v, hexval c = some v ∧ s.n.toNat ≤ 35 ∧ s.takeChar c = s.storeDigit v) ∨
    (∃ v, hexval c = some v ∧ 36 ≤ s.n.toNat ∧ s.takeChar c = s.saturate) := by
  unfold State.takeChar
  cases hv : hexval c with
  | none => exact .inl ⟨rfl, rfl⟩
  | some v =>
    by_cases hn : s.n ≤ nLast
    · exact .inr (.inl ⟨v, rfl, by simpa [BitVec.le_def] using hn, by simp [hn]⟩)
    · exact .inr (.inr ⟨v, rfl, by simpa [BitVec.le_def, Nat.succ_le_iff] using hn, by simp [hn]⟩)

theorem State.inCall_collect {f : State → State} {s : State} (h : s.ph = Phase.collect) :
    s.inCall f = f s := by
  simp [State.inCall, h]

theorem State.inCall_other {f : State → State} {s : State} (h : s.ph ≠ Phase.collect) :
    s.inCall f = s.setPerr := by
  simp [State.inCall, h]

end Sys2Proof.Machine
end

