-- ==== Sys2Proof/Laws/Step.lean ====
section
/-! SUPPORT. What U.CHECK, U.PAD, U.HASH and the step can do, said once. -/

namespace Sys2Proof.Machine

/-! ## The arms of `exec` -/

@[simp] theorem exec_start (s : State) : exec .start s = execStart s := rfl
@[simp] theorem exec_char (c : Byte) (s : State) : exec (.char c) s = execChar c s := rfl
@[simp] theorem exec_endTok (s : State) : exec .endTok s = execEnd s := rfl
@[simp] theorem exec_rsvd0 (arg : Byte) (s : State) : exec (.rsvd0 arg) s = execRsvd0 arg s := rfl
@[simp] theorem exec_rsvd2 (arg : Byte) (s : State) : exec (.rsvd2 arg) s = execRsvd2 arg s := rfl
@[simp] theorem exec_rsvd3 (arg : Byte) (s : State) : exec (.rsvd3 arg) s = execRsvd3 arg s := rfl
@[simp] theorem exec_uCheck (s : State) : exec .uCheck s = execUCheck s := rfl
@[simp] theorem exec_uPad (s : State) : exec .uPad s = execUPad s := rfl
@[simp] theorem exec_uHash (s : State) : exec .uHash s = execUHash s := rfl

/-- All that U.CHECK can do (R113): InvalidLength; or, for a legal count, ChecksumMismatch or PAD. The
InvalidHex branch is never taken (R109). -/
theorem State.checkCall_cases (s : State) :
    (legalCount s.n = false ∧ s.checkCall = s.raiseError .invalidLength) ∨
    (legalCount s.n = true ∧ checksumCorrect s.nib (secretLen s.n).toNat = false ∧
      s.checkCall =
        State.raiseError { s with L := secretLen s.n, crc := crcRun (secretOf s.nib (secretLen s.n).toNat) }
          (.checksumMismatch
            (byteAt s.nib (secretLen s.n).toNat ++ byteAt s.nib ((secretLen s.n).toNat + 1))
            ((crcBytes (secretOf s.nib (secretLen s.n).toNat)).1 ++
              (crcBytes (secretOf s.nib (secretLen s.n).toNat)).2))) ∨
    (legalCount s.n = true ∧ checksumCorrect s.nib (secretLen s.n).toNat = true ∧
      s.checkCall = { s with L := secretLen s.n, crc := crcRun (secretOf s.nib (secretLen s.n).toNat),
                             ph := Phase.pad }) := by
  have heven : ∀ n : BitVec 6, legalCount n = true → n.getLsbD 0 = false := by decide
  unfold State.checkCall
  cases hl : legalCount s.n with
  | false => exact .inl ⟨rfl, by simp⟩
  | true =>
    rw [heven s.n hl]
    unfold State.compareChecksum checksumCorrect
    by_cases h1 : (crcBytes (secretOf s.nib (secretLen s.n).toNat)).1 = byteAt s.nib (secretLen s.n).toNat
    · by_cases h2 : (crcBytes (secretOf s.nib (secretLen s.n).toNat)).2 =
          byteAt s.nib ((secretLen s.n).toNat + 1)
      · refine .inr (.inr ⟨rfl, by simp [h1, h2], ?_⟩)
        simp [h1, h2, State.goPhase]
      · refine .inr (.inl ⟨rfl, by simp [h2], ?_⟩)
        simp [h2]
    · refine .inr (.inl ⟨rfl, by simp [h1], ?_⟩)
      simp [h1]

/-- U.PAD answers a next state only in PAD with a legal `L`. -/
theorem execUPad_next {s t : State} (h : execUPad s = .next t) :
    s.ph = Phase.pad ∧ legalLen s.L = true ∧ t = s.padMessage := by
  obtain ⟨hp, h⟩ := controllerStep_next h
  split at h
  · exact ⟨hp, ‹_›, by injection h with h; exact h.symm⟩
  · cases h

/-- U.HASH answers a next state only in HASH with a block left that lies inside `pm`. -/
theorem execUHash_next {s t : State} (h : execUHash s = .next t) :
    s.ph = Phase.hash ∧ s.blk.toNat < s.nblk.toNat ∧ s.blk.toNat < 2 ∧ t = s.hashBlock := by
  obtain ⟨hp, h⟩ := controllerStep_next h
  split at h
  · cases h
  · split at h
    · cases h
    · rename_i h1 h2
      refine ⟨hp, ?_, ?_, by injection h with h; exact h.symm⟩
      · simpa [BitVec.le_def] using h1
      · simpa [BitVec.le_def] using h2

/-- U.CHECK answers a next state only in CHECK. -/
theorem execUCheck_next {s t : State} (h : execUCheck s = .next t) :
    s.ph = Phase.check ∧ t = s.checkCall := by
  obtain ⟨hp, h⟩ := controllerStep_next h
  exact ⟨hp, by injection h with h; exact h.symm⟩

/-- The two forms of U.HASH's result (R154). -/
theorem State.hashBlock_cases (s : State) :
    (s.blk + 1#2 = s.nblk ∧ s.hashBlock =
      { s with H := compress s.H (memReadBlock s.pm (16 * s.blk.toNat)), blk := s.blk + 1#2,
               st := Status.ok, ph := Phase.done }) ∨
    (s.blk + 1#2 ≠ s.nblk ∧ s.hashBlock =
      { s with H := compress s.H (memReadBlock s.pm (16 * s.blk.toNat)), blk := s.blk + 1#2 }) := by
  unfold State.hashBlock
  by_cases h : s.blk + 1#2 = s.nblk
  · exact .inl ⟨h, by simp [h]⟩
  · exact .inr ⟨h, by simp [h]⟩

/-- A code word of the phase register decodes only in CHECK, PAD and HASH. -/
theorem decodeSelect_ok {p : PhaseWord} {i : Instr} (h : decodeSelect p = .ok i) :
    (p = Phase.check ∧ i = .uCheck) ∨ (p = Phase.pad ∧ i = .uPad) ∨ (p = Phase.hash ∧ i = .uHash) := by
  unfold decodeSelect at h
  split at h
  · exact .inl ⟨‹_›, by injection h with h; exact h.symm⟩
  · split at h
    · exact .inr (.inl ⟨‹_›, by injection h with h; exact h.symm⟩)
    · split at h
      · exact .inr (.inr ⟨‹_›, by injection h with h; exact h.symm⟩)
      · split at h <;> cases h

/-- A token decodes to a token. -/
theorem decodeToken_isToken (w : TokenWord) : (decodeToken w).isToken = true := by
  unfold decodeToken
  split
  · split <;> rfl
  · split
    · rfl
    · split
      · split <;> rfl
      · rfl

/-- All that `fetch` can answer. -/
theorem fetch_cases (s : State) :
    (s.input.rst = true ∧ fetch s = .reset) ∨
    (s.input.rst = false ∧ s.ready = true ∧ s.input.tokValid = true ∧
      fetch s = .run (decodeToken s.input.tok)) ∨
    (s.input.rst = false ∧ s.ready = true ∧ s.input.tokValid = false ∧ fetch s = .wait) ∨
    (s.input.rst = false ∧ s.ph = Phase.check ∧ fetch s = .run .uCheck) ∨
    (s.input.rst = false ∧ s.ph = Phase.pad ∧ fetch s = .run .uPad) ∨
    (s.input.rst = false ∧ s.ph = Phase.hash ∧ fetch s = .run .uHash) ∨
    (s.input.rst = false ∧ (s.ph = 6#3 ∨ s.ph = 7#3) ∧ fetch s = .stuck) := by
  have hall : ∀ p : PhaseWord, p = Phase.idle ∨ p = Phase.collect ∨ p = Phase.done ∨ p = Phase.check ∨
      p = Phase.pad ∨ p = Phase.hash ∨ p = 6#3 ∨ p = 7#3 := by decide
  unfold fetch
  cases hr : s.input.rst with
  | true => simp
  | false =>
    cases hv : s.input.tokValid <;>
      rcases hall s.ph with h | h | h | h | h | h | h | h <;> simp [State.ready, h, decodeSelect]

/-- All that a step which answers a next state can be. -/
theorem step_cases {s t : State} (h : step s = .next t) :
    (s.input.rst = true ∧ t = s.popInput.resetEvent) ∨
    (s.input.rst = false ∧ s.ready = true ∧ s.input.tokValid = true ∧
      exec (decodeToken s.input.tok) s.popInput = .next t) ∨
    (s.input.rst = false ∧ s.ready = true ∧ s.input.tokValid = false ∧ t = s.popInput) ∨
    (s.input.rst = false ∧ s.ph = Phase.check ∧ t = s.popInput.checkCall) ∨
    (s.input.rst = false ∧ s.ph = Phase.pad ∧ legalLen s.L = true ∧ t = s.popInput.padMessage) ∨
    (s.input.rst = false ∧ s.ph = Phase.hash ∧ s.blk.toNat < s.nblk.toNat ∧ s.blk.toNat < 2 ∧
      t = s.popInput.hashBlock) := by
  unfold step at h
  rcases fetch_cases s with ⟨hr, hf⟩ | ⟨hr, hy, hv, hf⟩ | ⟨hr, hy, hv, hf⟩ | ⟨hr, hp, hf⟩ | ⟨hr, hp, hf⟩ |
    ⟨hr, hp, hf⟩ | ⟨hr, hp, hf⟩ <;> rw [hf] at h
  · exact .inl ⟨hr, by injection h with h; exact h.symm⟩
  · exact .inr (.inl ⟨hr, hy, hv, h⟩)
  · exact .inr (.inr (.inl ⟨hr, hy, hv, by injection h with h; exact h.symm⟩))
  · exact .inr (.inr (.inr (.inl ⟨hr, hp, (execUCheck_next h).2⟩)))
  · have := execUPad_next h
    exact .inr (.inr (.inr (.inr (.inl ⟨hr, hp, this.2.1, this.2.2⟩))))
  · have := execUHash_next h
    exact .inr (.inr (.inr (.inr (.inr ⟨hr, hp, this.2.1, this.2.2.1, this.2.2.2⟩))))
  · cases h

/-- All that a token can do when it is transferred. -/
theorem exec_token_cases {s t : State} {w : TokenWord} (hr : s.ready = true)
    (h : exec (decodeToken w) s = .next t) :
    (decodeToken w = .start ∧ t = s.beginCall) ∨
    (∃ c, decodeToken w = .char c ∧ t = s.inCall (State.takeChar c)) ∨
    (decodeToken w = .endTok ∧ t = s.inCall fun s => s.goPhase Phase.check) ∨
    ((decodeToken w).isReserved = true ∧ t = s.setPerr) := by
  have hk := decodeToken_isToken w
  generalize decodeToken w = i at h hk
  have key : ∀ f : State → State, hostStep f s = .next t → t = f s := by
    intro f hf
    rw [hostStep_of_ready hr] at hf
    injection hf with hf
    exact hf.symm
  cases i with
  | start => exact .inl ⟨rfl, key _ h⟩
  | char c => exact .inr (.inl ⟨c, rfl, key _ h⟩)
  | endTok => exact .inr (.inr (.inl ⟨rfl, key _ h⟩))
  | rsvd0 a => exact .inr (.inr (.inr ⟨rfl, key _ h⟩))
  | rsvd2 a => exact .inr (.inr (.inr ⟨rfl, key _ h⟩))
  | rsvd3 a => exact .inr (.inr (.inr ⟨rfl, key _ h⟩))
  | uCheck => cases hk
  | uPad => cases hk
  | uHash => cases hk

/-! ## Runs -/

/-- A run whose first step answers a next state goes on from there. -/
theorem run_of_next {s t : State} (h : step s = .next t) (k : Nat) :
    Host.Core.run core (k + 1) s = Host.Core.run core k t := by
  have e : core.step s = .next t := h
  simp [Host.Core.run, e]

theorem run_of_fault {s : State} {r : Fault} (h : step s = .fault r) (k : Nat) :
    Host.Core.run core (k + 1) s = .fault r := by
  have e : core.step s = .fault r := h
  simp [Host.Core.run, e]

theorem run_of_refused {s : State} {r : Refusal} (h : step s = .refused r) (k : Nat) :
    Host.Core.run core (k + 1) s = .refused r := by
  have e : core.step s = .refused r := h
  simp [Host.Core.run, e]

/-- A run of `k + 1` steps that goes through is a step and a run of `k`. -/
theorem run_succ_next {s t : State} {k : Nat} (h : Host.Core.run core (k + 1) s = .next t) :
    ∃ u, step s = .next u ∧ Host.Core.run core k u = .next t := by
  cases hst : step s with
  | next u => exact ⟨u, rfl, (run_of_next hst k).symm.trans h⟩
  | fault r => rw [run_of_fault hst] at h; cases h
  | refused r => rw [run_of_refused hst] at h; cases h

/-- Runs compose. -/
theorem run_add {s t : State} {j : Nat} (h : Host.Core.run core j s = .next t) (k : Nat) :
    Host.Core.run core (j + k) s = Host.Core.run core k t := by
  induction j generalizing s with
  | zero =>
    have e : s = t := by injection h
    rw [Nat.zero_add, e]
  | succ j ih =>
    obtain ⟨u, hu, hr⟩ := run_succ_next h
    rw [Nat.add_right_comm, run_of_next hu, ih hr]

/-- A property that a step keeps, a run keeps. -/
theorem run_induction {P : State → Prop} (hstep : ∀ s t, P s → step s = .next t → P t) {k : Nat}
    {s t : State} (hs : P s) (h : Host.Core.run core k s = .next t) : P t := by
  induction k generalizing s with
  | zero =>
    have e : s = t := by injection h
    exact e ▸ hs
  | succ k ih =>
    obtain ⟨u, hu, hr⟩ := run_succ_next h
    exact ih (hstep s u hs hu) hr

@[simp] theorem clockCycles_zero (run j : Nat) (s : State) : clockCycles run j 0 s = 0 := rfl

/-- The cycles of a step that goes through come on top of those of the steps after it. -/
theorem clockCycles_succ {s t : State} (run j k : Nat) (h : step s = .next t) :
    clockCycles run j (k + 1) s = Config.cyc run j s + clockCycles run (j + 1) k t := by
  simp only [clockCycles, h]

/-- Every step takes at least one clock cycle (R199), so a run of `k` steps takes at least `k`. -/
theorem le_clockCycles {k : Nat} (run j : Nat) {s t : State} (h : Host.Core.run core k s = .next t) :
    k ≤ clockCycles run j k s := by
  induction k generalizing s j with
  | zero => exact Nat.zero_le _
  | succ k ih =>
    obtain ⟨u, hu, hr⟩ := run_succ_next h
    have := ih (j + 1) hr
    rw [clockCycles_succ run j k hu, Config.cyc]
    omega

end Sys2Proof.Machine
end

