-- ==== Sys2Proof/Laws/Pad.lean ====
section
/-! SUPPORT. The padding formatter and the compression loop: the length of the Padded Message, what U.PAD
leaves in `pm`, and one more block of the chain. -/

namespace Sys2Proof.Machine

theorem pad_length (d : List Byte) : (pad d).length = paddedLen d.length := by
  simp [pad, paddedLen]
  omega

/-- After U.PAD `pm` reads as the Padded Message, then as zeros, whatever it held (R125). -/
theorem pmAt_padBuffer (pm : Vector Byte 32) (d : List Byte) (a : Nat) (ha : a < 32) :
    pmAt (padBuffer pm d) a = (pad d).getD a 0x00#8 := by
  rw [padBuffer, pmAt_clearFrom _ _ _ ha, pmAt_memWrite _ _ _ _ ha, pad_length]
  by_cases h : paddedLen d.length ≤ a
  · rw [if_pos h, List.getD_eq_getElem?_getD, List.getElem?_eq_none (by rw [pad_length]; exact h)]
    rfl
  · rw [if_neg h, if_pos (by omega), Nat.sub_zero]

@[simp] theorem chain_zero (p : List Byte) : chain p 0 = zeroBlock := rfl

/-- One more block (R152). -/
theorem chain_succ (p : List Byte) (k : Nat) : chain p (k + 1) = compress (chain p k) (blockOf p k) := by
  simp [chain, List.range_succ]

@[simp] theorem blockOf_getElem (p : List Byte) (j i : Nat) (h : i < 16) :
    (blockOf p j)[i] = p.getD (16 * j + i) 0x00#8 := by
  simp [blockOf]

/-- `memReadBlock` at `16 * j` is block `j` of any byte sequence that `pm` reads as. -/
theorem memReadBlock_eq_blockOf {pm : Vector Byte 32} {p : List Byte} {j : Nat} (hj : j < 2)
    (h : ∀ a : Nat, a < 32 → pmAt pm a = p.getD a 0x00#8) : memReadBlock pm (16 * j) = blockOf p j := by
  ext i hi : 1
  rw [memReadBlock_getElem _ _ _ hi, blockOf_getElem _ _ _ hi, h _ (by omega)]

end Sys2Proof.Machine
end

