-- ==== Sys2Proof/Laws/PerInstr.lean ====
section
/-! SUPPORT. One lemma per instruction: its code word has the fixed bits of its row of
spec/opcode_table.json, and a token keeps its 8 free bits. Spec: 30_encoding.md R60, R61, R66. -/

namespace Sys2Proof.Laws.CodeWordMatchesRow

open Sys2Proof

/-- The code word is a token whose bits under `mask` are `bits`, and whose `arg` field is `arg`. -/
def tokenRow (cw : CodeWord) (mask bits : TokenWord) (arg : Byte) : Prop :=
  ∃ w : TokenWord, cw = .token w ∧ w &&& mask = bits ∧ w.setWidth 8 = arg

/-- The row of the opcode table: mask and match, and for the rows with operands the operand. -/
def Statement : Instr → Prop
  | .start => tokenRow (encode .start) 0x3FF#10 0x000#10 0x00#8
  | .char c => tokenRow (encode (.char c)) 0x300#10 0x100#10 c
  | .endTok => tokenRow (encode .endTok) 0x3FF#10 0x200#10 0x00#8
  | .rsvd0 arg => tokenRow (encode (.rsvd0 arg)) 0x300#10 0x000#10 arg
  | .rsvd2 arg => tokenRow (encode (.rsvd2 arg)) 0x300#10 0x200#10 arg
  | .rsvd3 arg => tokenRow (encode (.rsvd3 arg)) 0x300#10 0x300#10 arg
  | .uCheck => encode .uCheck = .select 0b010#3
  | .uPad => encode .uPad = .select 0b011#3
  | .uHash => encode .uHash = .select 0b100#3

/-- Masking and reading the fields of a token made from two fields. -/
theorem tokenWord_fields : ∀ (op : BitVec 2) (arg : Byte),
    tokenWord op arg &&& 0x300#10 = op.setWidth 10 <<< 8 ∧ (tokenWord op arg).setWidth 8 = arg := by
  decide +kernel

theorem start : Statement .start := ⟨_, rfl, by decide, by decide⟩

theorem char (c : Byte) : Statement (.char c) :=
  ⟨_, rfl, (tokenWord_fields 0b01#2 c).1, (tokenWord_fields 0b01#2 c).2⟩

theorem endTok : Statement .endTok := ⟨_, rfl, by decide, by decide⟩

theorem rsvd0 (arg : Byte) : Statement (.rsvd0 arg) :=
  ⟨_, rfl, (tokenWord_fields 0b00#2 arg).1, (tokenWord_fields 0b00#2 arg).2⟩

theorem rsvd2 (arg : Byte) : Statement (.rsvd2 arg) :=
  ⟨_, rfl, (tokenWord_fields 0b10#2 arg).1, (tokenWord_fields 0b10#2 arg).2⟩

theorem rsvd3 (arg : Byte) : Statement (.rsvd3 arg) :=
  ⟨_, rfl, (tokenWord_fields 0b11#2 arg).1, (tokenWord_fields 0b11#2 arg).2⟩

theorem uCheck : Statement .uCheck := rfl

theorem uPad : Statement .uPad := rfl

theorem uHash : Statement .uHash := rfl

end Sys2Proof.Laws.CodeWordMatchesRow
end

