-- ==== Sys2Proof/Tests/Slice0.lean ====
section
/-! SUPPORT. Tests of the model, and for each statement with hypotheses a state and operands that meet them.
Expected values are those that the spec writes out; each test names where. -/

namespace Sys2Proof.Tests

open Sys2Proof Sys2Proof.Machine

-- One theorem at a time: a waiting proof holds a thread, and many of them would not fit in memory.
set_option Elab.async false

/-! ## Small states -/

/-- The outcome is a next state with this property. -/
def nextWith (o : Host.Outcome State Fault Refusal) (p : State → Bool) : Bool :=
  match o with
  | .next t => p t
  | .fault _ => false
  | .refused _ => false

/-- A digit buffer that starts with these digits. -/
def bufferOf (q : List Nibble) : Vector Nibble 36 := Vector.ofFn fun i => q.getD i.val 0#4

/-- A message buffer that starts with these bytes. -/
def messageOf (v : List Byte) : Vector Byte 32 := Vector.ofFn fun i => v.getD i.val 0#8

/-- The reset values in another phase. -/
def inPhase (p : PhaseWord) : State := { State.reset with ph := p }

/-- A call in COLLECT or CHECK with these digits passed. -/
def withDigits (p : PhaseWord) (q : List Nibble) : State :=
  { inPhase p with
    n := BitVec.ofNat 6 q.length
    nib := bufferOf q }

/-- The digits of code W1, "0011223344554AB3" (spec/95 section 8). -/
def w1 : List Nibble := [0, 0, 1, 1, 2, 2, 3, 3, 4, 4, 5, 5, 4, 10, 11, 3]

/-- The digits of code W21, "001122334455B34A". -/
def w21 : List Nibble := [0, 0, 1, 1, 2, 2, 3, 3, 4, 4, 5, 5, 11, 3, 4, 10]

/-- Program P2 after U.CHECK. -/
def p2Pad : State :=
  { withDigits Phase.pad w1 with
    L := 6
    crc := 0x4CB5 }

/-- Program P2 after U.PAD. -/
def p2Hash : State :=
  { p2Pad with
    ph := Phase.hash
    nblk := 1
    pm := messageOf [0x00, 0x11, 0x22, 0x33, 0x44, 0x55, 0x80, 0, 0, 0, 0, 0, 0, 0, 0, 0x30] }

/-- A program P4 state after U.PAD, as far as U.HASH reads it. -/
def p4Hash : State :=
  { inPhase Phase.hash with
    nblk := 2
    pm := messageOf ([0x83, 0xFE, 0xD3, 0x40, 0x7A, 0x93, 0x97, 0x23, 0xA5, 0xC6, 0x39, 0xB2, 0x69, 0x16, 0xD5,
      0x05] ++ [0x80, 0, 0, 0, 0, 0, 0, 0, 0, 0, 0, 0, 0, 0, 0, 0x80]) }

/-! ## Ill-formed terms are refused (R61) -/

theorem test_wf_refuses_rsvd0_zero : (Instr.rsvd0 0x00#8).wf = false := by decide
theorem test_wf_refuses_rsvd2_zero : (Instr.rsvd2 0x00#8).wf = false := by decide
theorem test_wf_accepts_rsvd3_zero : (Instr.rsvd3 0x00#8).wf = true := by decide

/-! ## Words written out from the encodings of R61 and R66 -/

theorem test_decode_start : decodeBytes [0x00#8, 0x00#8] = .ok .start := by decide
theorem test_decode_char : decodeBytes [0x62#8, 0x01#8] = .ok (.char 0x62#8) := by decide
theorem test_decode_end : decodeBytes [0x00#8, 0x02#8] = .ok .endTok := by decide
theorem test_decode_rsvd0 : decodeToken 0b0000000001#10 = .rsvd0 0x01#8 := by decide
theorem test_decode_rsvd2 : decodeToken 0b1011111111#10 = .rsvd2 0xFF#8 := by decide
theorem test_decode_rsvd3 : decodeToken 0x3AA#10 = .rsvd3 0xAA#8 := by decide
theorem test_decode_uCheck : decodeBytes [0b010#8] = .ok .uCheck := by decide
theorem test_decode_uPad : decodeBytes [0b011#8] = .ok .uPad := by decide
theorem test_decode_uHash : decodeBytes [0b100#8] = .ok .uHash := by decide
theorem test_decode_errors : decodeBytes [0b101#8] = .error .noMicroOperation ∧
    decodeBytes [0b110#8] = .error .unusedPhaseCode ∧ decodeBytes [0x08#8] = .error .bitsAbovePhaseCode ∧
    decodeBytes [0x00#8, 0x04#8] = .error .bitsAboveToken ∧ decodeBytes [] = .error .badLength := by
  decide
/-- `withFetchWord` makes the next step run the row's instruction. -/
theorem test_fetch_word_runs_uHash : fetch (State.reset.withFetchWord 8 4) = .run .uHash ∧
    nextWith (step (State.reset.withFetchWord 16 0x200)) (fun t => t.perr) = true ∧
    nextWith (step (State.reset.withFetchWord 8 3)) (fun t => t.ph == Phase.hash) = true := by
  decide +kernel

/-! ## One step of each instruction -/

/-- spec/95 section 2.2, last row. -/
theorem test_start_clears : nextWith (exec .start { inPhase Phase.done with
    st := 4
    cg := 0xB34A
    L := 6 }) (fun t => t == { State.reset with ph := Phase.collect }) = true := by
  decide +kernel
theorem test_start_in_collect : nextWith (exec .start (withDigits Phase.collect [7]))
    (fun t => t.n == 0#6 && t.ph == Phase.collect && nibAt t.nib 0 == 0#4) = true := by
  decide +kernel
/-- spec/95 section 2.2, rows 2 and 5 to 7. -/
theorem test_char_stores : nextWith (exec (.char 0x42#8) (withDigits Phase.collect [11]))
    (fun t => t.n == 2#6 && nibAt t.nib 1 == 11#4 && nibAt t.nib 0 == 11#4) = true := by
  decide +kernel
theorem test_char_saturates :
    nextWith (exec (.char 0x37#8) (withDigits Phase.collect (List.replicate 36 1#4)))
      (fun t => t.n == 37#6 && nibAt t.nib 35 == 1#4) = true := by
  decide +kernel
theorem test_end_to_check : nextWith (exec .endTok (inPhase Phase.collect)) (fun t => t == inPhase Phase.check) =
    true := by
  decide +kernel
/-- spec/95 section 2.2: END in DONE. -/
theorem test_end_in_done : nextWith (exec .endTok { inPhase Phase.done with st := 1 })
    (fun t => t.perr && t.st == 1#3 && t.ph == Phase.done) = true := by
  decide +kernel
/-- spec/95 section 2.2 (0x3AA) and program P5. -/
theorem test_rsvd_perr : nextWith (exec (.rsvd3 0xAA#8) (withDigits Phase.collect [1, 2]))
    (fun t => t == { withDigits Phase.collect [1, 2] with perr := true }) = true := by
  decide +kernel
/-- Program P3. -/
theorem test_check_mismatch : nextWith (exec .uCheck (withDigits Phase.check w21))
    (fun t => t == { withDigits Phase.done w21 with
      L := 6
      crc := 0x4CB5
      st := 4
      cg := 0xB34A
      cc := 0x4AB3 }) = true := by
  decide +kernel
/-- Program P2. -/
theorem test_check_passes : nextWith (exec .uCheck (withDigits Phase.check w1)) (fun t => t == p2Pad) = true := by
  decide +kernel
theorem test_pad_message : nextWith (exec .uPad p2Pad) (fun t => t == p2Hash) = true := by decide +kernel

/-! ## Shared operations -/

/-- spec/95 section 2.1. -/
theorem test_hexval : [0x2F, 0x30, 0x39, 0x3A, 0x40, 0x41, 0x46, 0x47, 0x60, 0x61, 0x66, 0x67, 0xB0].map
    (fun c : Byte => hexval c) = [none, some 0, some 9, none, none, some 10, some 15, none, none, some 10, some 15,
      none, none] := by
  decide
/-- spec/95 section 3.1. -/
theorem test_crc_step : crcStep 0x1234#16 0x56#8 = 0x4006#16 ∧ crcStep 0xB914#16 0xFE#8 = 0x48ED#16 := by
  decide +kernel
theorem test_crc_check_value :
    crcFinal [0x31, 0x32, 0x33, 0x34, 0x35, 0x36, 0x37, 0x38, 0x39] = 0x906E#16 := by
  decide +kernel
/-- spec/95 section 7.1. -/
theorem test_pad_sizes : [0, 13, 14, 29, 8191, 8192].map zeroCount = [13, 0, 15, 0, 14, 13] ∧
    bitLen 8191 = 0xFFF8#16 ∧ bitLen 8192 = 0x0000#16 := by
  decide +kernel

/-! ## Witnesses: states and operands that meet the hypotheses of the statements -/

theorem witness_reset_event : State.input { p2Hash with inputs := [⟨true, true, 0x141#10⟩] } =
    ⟨true, true, 0x141#10⟩ := rfl

theorem witness_token_rows : (0x100#10 &&& 0x300#10 = 0x100#10 ∧ 0x1FF#10 &&& 0x300#10 = 0x100#10) ∧
    (0x001#10 ≠ 0x000#10 ∧ 0x001#10 &&& 0x300#10 = 0x000#10 ∧ 0x0FF#10 &&& 0x300#10 = 0x000#10) ∧
    (0x201#10 ≠ 0x200#10 ∧ 0x201#10 &&& 0x300#10 = 0x200#10 ∧ 0x2FF#10 &&& 0x300#10 = 0x200#10) ∧
    (0x300#10 &&& 0x300#10 = 0x300#10 ∧ 0x3FF#10 &&& 0x300#10 = 0x300#10) := by
  decide

theorem witness_well_formed : (Instr.rsvd0 0x01#8).wf = true ∧ (Instr.rsvd2 0xFF#8).wf = true ∧
    (Instr.char 0x00#8).wf = true ∧ Instr.uHash.wf = true := by
  decide

theorem witness_decodes : decode (.token 0x3FF#10) = .ok (.rsvd3 0xFF#8) ∧ decode (.select 2#3) = .ok .uCheck := by
  decide

/-- The three clauses of the step statement: a token offered, a phase that selects, nothing offered. -/
theorem witness_step_clauses :
    (let s := { inPhase Phase.done with inputs := [HostCycle.offer 0x141#10] };
      s.input.rst = false ∧ s.ready = true ∧ s.input.tokValid = true ∧
        decode (.token s.input.tok) = .ok (.char 0x41#8)) ∧
    (p2Hash.input.rst = false ∧ decode (.select p2Hash.ph) = .ok .uHash) ∧
    (State.reset.input.rst = false ∧ State.reset.ready = true ∧ State.reset.input.tokValid = false) := by
  decide +kernel

theorem witness_busy : p2Pad.ready = false ∧ (Instr.char 0x41#8).isToken = true := by decide +kernel

/-- The phases of the phase table, each with a host that does not assert reset, and one transition. -/
theorem witness_phases : (∀ p ∈ [0#3, 1#3, 2#3, 3#3, 4#3, 5#3, 6#3, 7#3], (inPhase p).ph = p ∧
      (inPhase p).input.rst = false) ∧
    State.input { inPhase Phase.idle with inputs := [HostCycle.offer 0x000#10] } = HostCycle.offer 0x000#10 ∧
    ∃ t, step (inPhase Phase.check) = .next t ∧ t.ph ≠ Phase.check :=
  ⟨by decide +kernel, rfl, _, rfl, by decide⟩

theorem witness_forced_reset : State.input { inPhase 6#3 with inputs := [HostCycle.reset] } = HostCycle.reset := rfl

theorem witness_ready : (inPhase Phase.idle).ready = true ∧ (inPhase Phase.collect).ready = true ∧
    (inPhase Phase.done).ready = true := by
  decide +kernel

theorem witness_char_stores : (inPhase Phase.collect).ph = Phase.collect ∧
    hexval 0x66#8 = some 15#4 ∧ (inPhase Phase.collect).n.toNat ≤ 35 ∧
    (withDigits Phase.collect (List.replicate 35 9#4)).n.toNat = 35 := by
  decide +kernel

theorem witness_char_saturates : (withDigits Phase.collect (List.replicate 36 9#4)).n.toNat = 36 ∧
    hexval 0x30#8 = some 0#4 ∧
    (let s := withDigits Phase.check (List.replicate 37 9#4);
      s.n = 37#6 ∧ s.input.rst = false ∧ fetch s ≠ .run .start ∧ ∃ t, step s = .next t) :=
  ⟨by decide +kernel, by decide, by decide +kernel, rfl, by decide, _, rfl⟩

theorem witness_char_skipped : hexval 0x2D#8 = none ∧ hexval 0xFF#8 = none := by decide

/-- END with no digit passed, the boundary of the second clause. -/
theorem witness_end_empty : (inPhase Phase.collect).ph = Phase.collect ∧ (inPhase Phase.collect).n = 0#6 :=
  ⟨rfl, rfl⟩

theorem witness_outside_call : (inPhase Phase.idle).ph = Phase.idle ∧ (inPhase Phase.done).ph = Phase.done ∧
    (inPhase Phase.collect).ph = Phase.collect := ⟨rfl, rfl, rfl⟩

theorem witness_token_frame : ∃ t, (Instr.char 0x37#8).isToken = true ∧ Instr.char 0x37#8 ≠ .start ∧
    exec (.char 0x37#8) (inPhase Phase.collect) = .next t ∧ t.n = 1#6 :=
  ⟨_, rfl, by decide, rfl, by decide +kernel⟩

theorem witness_hexval_ranges : ∀ c ∈ [0x30#8, 0x39#8, 0x41#8, 0x46#8, 0x61#8, 0x66#8], (hexval c).isSome = true := by
  decide

/-- A host that passes START, a digit, a reserved token, nothing, a skipped character. -/
def someMiddle : List HostCycle := [HostCycle.offer 0x162#10, HostCycle.offer 0x3AA#10, HostCycle.idle,
  HostCycle.offer 0x12D#10]

theorem witness_front_end : State.reset.ready = true ∧ (∀ c ∈ someMiddle, c.insideCall = true) ∧
    digitsOf (charsOf someMiddle) = [11#4] ∧ anyReserved someMiddle = true := by
  decide +kernel

/-- All the hypotheses about a whole call together, in a state after an earlier call. -/
theorem witness_whole_call : ∃ s : State, s.ready = true ∧ s.ph = Phase.done ∧
    (∀ c ∈ someMiddle, c.insideCall = true) ∧
    s.inputs = HostCycle.offer (tokenWord 0b00#2 0x00#8) :: someMiddle ++
      [HostCycle.offer (tokenWord 0b10#2 0x00#8)] :=
  ⟨{ inPhase Phase.done with inputs := HostCycle.offer 0x000#10 :: someMiddle ++ [HostCycle.offer 0x200#10] },
    by decide +kernel, rfl, by decide +kernel, rfl⟩

theorem witness_case : List.Forall₂ (fun c c' : Byte => c = c' ∨
      (0x61 ≤ c.toNat ∧ c.toNat ≤ 0x66 ∧ c'.toNat = c.toNat - 0x20) ∨
      (0x61 ≤ c'.toNat ∧ c'.toNat ≤ 0x66 ∧ c.toNat = c'.toNat - 0x20))
    [0x61#8, 0x46#8, 0x30#8] [0x41#8, 0x66#8, 0x30#8] := by
  simp

theorem witness_separators : [0x2D#8, 0x41#8].filter (fun c => (hexval c).isSome) =
    [0x41#8, 0x20#8, 0xFF#8].filter (fun c => (hexval c).isSome) := by
  decide

theorem witness_offered : State.inputs { State.reset with inputs := offerAll (codeTokens [0x41#8]) } =
    [HostCycle.offer 0x000#10, HostCycle.offer 0x141#10, HostCycle.offer 0x200#10] := rfl

theorem witness_saturated_count : (37#6).toNat = min (List.replicate 40 0#4).length 37 ∧
    (36#6).toNat = min (List.replicate 36 0#4).length 37 := by
  decide

/-- U.CHECK: no legal count, a wrong checksum, a right one. -/
theorem witness_check : (withDigits Phase.check (List.replicate 15 0#4)).n.toNat = 15 ∧
    (withDigits Phase.check w21).n.toNat = 16 ∧
    checksumCorrect (withDigits Phase.check w21).nib 6 = false ∧
    checksumCorrect (withDigits Phase.check w1).nib 6 = true ∧
    (withDigits Phase.check (List.replicate 36 0#4)).n.toNat = 36 := by
  decide +kernel

theorem witness_invalid_hex_kept : ∃ s t, step s = .next t ∧ t.st = Status.invalidHex :=
  ⟨{ inPhase Phase.done with st := 3 }, _, rfl, rfl⟩

theorem witness_check_passes : ∃ t, legalCount (withDigits Phase.check w1).n = true ∧
    exec .uCheck (withDigits Phase.check w1) = .next t :=
  ⟨_, by decide +kernel, rfl⟩

theorem witness_changed_digit : legalCount (withDigits Phase.check w1).n = true ∧
    checksumCorrect (withDigits Phase.check w1).nib ((withDigits Phase.check w1).n.toNat / 2 - 2) = true ∧
    11 < (withDigits Phase.check w1).n.toNat - 4 ∧ 6#4 ≠ nibAt (withDigits Phase.check w1).nib 11 := by
  decide +kernel

theorem witness_pad : p2Pad.ph = Phase.pad ∧ p2Pad.L.toNat = 6 ∧ State.L { p2Pad with L := 16 } = 16#5 ∧
    (inPhase Phase.pad).L.toNat = 0 := by
  decide +kernel

theorem witness_derive_lengths : (List.replicate 12 0x00#8).length = 12 ∧
    (List.replicate 16 0x00#8).length = 16 := by
  decide

theorem witness_hash : p2Hash.ph = Phase.hash ∧ p2Hash.blk.toNat < p2Hash.nblk.toNat ∧ p2Hash.blk.toNat ≤ 1 ∧
    p2Hash.blk.toNat + 1 = p2Hash.nblk.toNat ∧ p4Hash.blk.toNat < p4Hash.nblk.toNat ∧ p4Hash.blk.toNat ≤ 1 ∧
    p4Hash.blk.toNat + 1 ≠ p4Hash.nblk.toNat ∧
    (let s : State := { p4Hash with blk := 1 };
      s.blk.toNat < s.nblk.toNat ∧ s.blk.toNat ≤ 1 ∧ s.blk.toNat + 1 = s.nblk.toNat) := by
  decide +kernel

theorem witness_hash_refused : (inPhase Phase.hash).nblk.toNat ≤ (inPhase Phase.hash).blk.toNat ∧
    (let s : State := { inPhase Phase.hash with
        blk := 2
        nblk := 3 };
      s.ph = Phase.hash ∧ s.blk = 2#2 ∧ s.nblk = 3#2) := by
  decide +kernel

theorem witness_micro_op_frame : ∃ t, Instr.uPad.isToken = false ∧ exec .uPad p2Pad = .next t ∧ t.ph = Phase.hash :=
  ⟨_, rfl, rfl, rfl⟩

theorem witness_ports : State.st { inPhase Phase.done with st := 1 } = Status.ok ∧
    (inPhase Phase.hash).st ≠ Status.ok := by
  decide +kernel

/-! ### The invariant, in states away from reset -/

/-- A call in COLLECT or CHECK: START's values but for the digits, which stop at `n`. -/
theorem inv_withDigits {p : PhaseWord} (hp : p = Phase.collect ∨ p = Phase.check) {q : List Nibble}
    (hq : q.length ≤ 36) : (withDigits p q).Inv := by
  have hn : (withDigits p q).n.toNat = q.length := by
    simp [withDigits]
    omega
  constructor
  · constructor
    case unused_digits =>
      intro i h1 h2
      rw [hn] at h1
      rw [nibAt_of_lt _ h2]
      simp [withDigits, bufferOf, List.getElem?_eq_none h1]
    case count =>
      rw [hn]
      omega
    all_goals rcases hp with rfl | rfl <;> simp [withDigits, inPhase, State.passed]
  · constructor <;> rcases hp with rfl | rfl <;> simp [withDigits, inPhase, State.passed, State.hashing]

/-- The states of the invariant's statements: an error in 1 step, and a code that takes 3 steps or 4. -/
theorem witness_invariant : (withDigits Phase.check w21).Inv ∧ (withDigits Phase.check w1).Inv ∧
    (withDigits Phase.check (List.replicate 32 0#4 ++ [10, 9, 10, 15])).Inv ∧
    ∃ t, step (withDigits Phase.check w1) = .next t ∧ t.ph = Phase.pad :=
  ⟨inv_withDigits (.inr rfl) (by decide), inv_withDigits (.inr rfl) (by decide),
    inv_withDigits (.inr rfl) (by decide), _, rfl, by decide +kernel⟩

theorem witness_error_leaves : (withDigits Phase.check w21).Inv ∧
    ∃ t, exec .uCheck (withDigits Phase.check w21) = .next t ∧ t.ph = Phase.done :=
  ⟨inv_withDigits (.inr rfl) (by decide), _, rfl, by decide +kernel⟩

theorem witness_controller_counts :
    nextWith (Host.Core.run core 3 (withDigits Phase.check w1)) (fun t => t.st == Status.ok) = true ∧
    nextWith (Host.Core.run core 1 (withDigits Phase.check w21)) (fun t => t.st != Status.ok) = true ∧
    nextWith (Host.Core.run core 4 (withDigits Phase.check (List.replicate 32 0#4 ++ [10, 9, 10, 15])))
      (fun t => t.st == Status.ok) = true := by
  decide +kernel

theorem witness_calls : ∃ s s' : State, s.ready = true ∧ s'.ready = true ∧ s ≠ s' ∧ s'.inputs = s.inputs ∧
    s.inputs = HostCycle.offer (tokenWord 0b00#2 0x00#8) :: [HostCycle.idle] :=
  ⟨{ inPhase Phase.done with
      st := 4
      inputs := [HostCycle.offer 0x000#10, HostCycle.idle] },
    { State.reset with inputs := [HostCycle.offer 0x000#10, HostCycle.idle] },
    by decide +kernel, by decide +kernel, by decide +kernel, rfl, rfl⟩

/-- The host that passes code W1 from reset. -/
def w1Host : State := { State.reset with
  inputs := offerAll (codeTokens [0x30, 0x30, 0x31, 0x31, 0x32, 0x32, 0x33, 0x33, 0x34, 0x34, 0x35, 0x35, 0x34,
    0x41, 0x42, 0x33]) }

/-- A run keeps reachability. -/
theorem reachable_of_run {k : Nat} {s t : State} (hs : Reachable s) (h : Host.Core.run core k s = .next t) :
    Reachable t :=
  run_induction (P := Reachable) (fun _ _ hs h => .step hs h) hs h

/-- A reachable state that shows a key: code W1 passed from reset, then three controller steps. -/
theorem witness_reachable_key : ∃ t : State, Reachable t ∧ t.status = Status.ok ∧ t.key ≠ zeroBlock := by
  have hb : nextWith (Host.Core.run core 21 w1Host) (fun t => t.status == Status.ok && t.key != zeroBlock) = true := by decide +kernel
  cases h : Host.Core.run core 21 w1Host with
  | next t => exact ⟨t, reachable_of_run (.reset _) h, by simpa [nextWith, h] using hb⟩
  | fault r => simp [nextWith, h] at hb
  | refused r => simp [nextWith, h] at hb

/-- A reachable state in HASH, whose status is not OK. -/
theorem witness_reachable_hash : ∃ t : State, Reachable t ∧ t.ph = Phase.hash ∧ t.status ≠ Status.ok := by
  have hb : nextWith (Host.Core.run core 20 w1Host) (fun t => t.ph == Phase.hash && t.status != Status.ok) = true := by
    decide +kernel
  cases h : Host.Core.run core 20 w1Host with
  | next t => exact ⟨t, reachable_of_run (.reset _) h, by simpa [nextWith, h] using hb⟩
  | fault r => simp [nextWith, h] at hb
  | refused r => simp [nextWith, h] at hb

/-! ## The cipher in U.HASH, and alone -/

theorem test_hash_last_block : nextWith (exec .uHash p2Hash) (fun t => t.blk == 1#2 && t.st == 1#3 &&
    t.ph == Phase.done && t.key == #v[0xAE, 0xEF, 0x55, 0x7E, 0x1A, 0xD8, 0xDE, 0x99, 0x36, 0x7A, 0xB2, 0x55,
      0x41, 0x94, 0x9B, 0x99]) = true := by
  decide +kernel
/-- Program P4, block 0. -/
theorem test_hash_first_of_two : nextWith (exec .uHash p4Hash) (fun t => t.blk == 1#2 && t.st == 0#3 &&
    t.ph == Phase.hash && t.key == zeroBlock && t.H == #v[0x5B, 0xDD, 0x3D, 0xB0, 0x8B, 0xBC, 0xC5, 0x01, 0x2C,
      0x82, 0x67, 0x86, 0x23, 0x37, 0x15, 0x37]) = true := by
  decide +kernel
/-- The example of 43_aes128.md, section 6.2 (first row of spec/95 section 4.1). -/
theorem test_aes : aes128Enc
    #v[0x2B, 0x7E, 0x15, 0x16, 0x28, 0xAE, 0xD2, 0xA6, 0xAB, 0xF7, 0x15, 0x88, 0x09, 0xCF, 0x4F, 0x3C]
    #v[0x32, 0x43, 0xF6, 0xA8, 0x88, 0x5A, 0x30, 0x8D, 0x31, 0x31, 0x98, 0xA2, 0xE0, 0x37, 0x07, 0x34] =
    #v[0x39, 0x25, 0x84, 0x1D, 0x02, 0xDC, 0x09, 0xFB, 0xDC, 0x11, 0x85, 0x97, 0x19, 0x6A, 0x0B, 0x32] := by
  decide +kernel

end Sys2Proof.Tests
end

/-! PROOFS. The invariant of the machine holds at reset and every step keeps it. One lemma for each effect a
step can have (the cases of `step_cases` and `exec_token_cases`), then O53 and O54 from them. -/

namespace Sys2Proof.Machine

/-! ## What the invariant says before DONE -/

/-- Only DONE shows a status (R29 (b)). -/
theorem State.Inv.status_none {s : State} (h : s.Inv) (hp : s.ph ≠ Phase.done) : s.st = Status.none :=
  not_not.mp fun hst => hp (h.1.status_iff_done.mp hst)

/-- Before DONE the diagnostic numbers are zero (R29 (b), (e)). -/
theorem State.Inv.diag_zero {s : State} (h : s.Inv) (hp : s.ph ≠ Phase.done) :
    s.cg = 0x0000#16 ∧ s.cc = 0x0000#16 :=
  h.1.diag_zero (by simp [h.status_none hp])

/-! ## Reset, START, `perr` and the host's inputs -/

/-- The reset values meet the invariant in IDLE (R30) and, as START's values, in COLLECT (R81). -/
theorem inv_reset_values {p : PhaseWord} (hp : p = Phase.idle ∨ p = Phase.collect)
    (ins : List HostCycle) : State.Inv { State.reset with ph := p, inputs := ins } := by
  rcases hp with rfl | rfl <;> constructor <;> constructor <;> simp [State.passed, State.hashing]

theorem State.resetEvent_inv (s : State) : s.resetEvent.Inv := inv_reset_values (.inl rfl) s.inputs

theorem State.beginCall_inv (s : State) : s.beginCall.Inv := inv_reset_values (.inr rfl) s.inputs

/-- The invariant says nothing about `perr` or about what the host will pass. -/
theorem State.Inv.withPerrInputs {s : State} (h : s.Inv) (b : Bool) (ins : List HostCycle) :
    State.Inv { s with perr := b, inputs := ins } := by
  obtain ⟨hl, hw⟩ := h
  refine ⟨{ hl with idle_reset := fun hp => ?_ }, { hw with }⟩
  rw [hl.idle_reset hp]

theorem State.Inv.popInput {s : State} (h : s.Inv) : s.popInput.Inv := h.withPerrInputs s.perr _

theorem State.Inv.setPerr {s : State} (h : s.Inv) : s.setPerr.Inv := h.withPerrInputs true s.inputs

/-! ## Tokens -/

/-- In an open call, before U.CHECK, the invariant allows any digits that stop at the count. -/
theorem State.Inv.withDigits {s : State} (h : s.Inv) (hp : s.ph = Phase.collect) {p : PhaseWord}
    (hp' : p = Phase.collect ∨ p = Phase.check) {n : BitVec 6} {nib : Vector Nibble 36}
    (hn : n.toNat ≤ 37) (hz : ∀ i : Nat, n.toNat ≤ i → i < 36 → nibAt nib i = 0#4) :
    State.Inv { s with ph := p, n := n, nib := nib } := by
  have hst := h.status_none (by simp [hp])
  have hd := h.diag_zero (by simp [hp])
  have hc := h.2.before_check (.inl hp)
  have hb := h.2.before_pad (by simp [State.hashing, hp])
  rcases hp' with rfl | rfl <;>
  · constructor
    · constructor
      case count => exact hn
      case unused_digits => exact hz
      all_goals simp [State.passed, *]
    · constructor <;> simp [State.passed, State.hashing, *]

theorem State.Inv.takeChar {s : State} (h : s.Inv) (hp : s.ph = Phase.collect) (c : Byte) :
    (s.takeChar c).Inv := by
  have hkeep {n nib} := h.withDigits hp (n := n) (nib := nib) (.inl rfl)
  rw [← hp] at hkeep
  rcases s.takeChar_cases c with ⟨-, e⟩ | ⟨v, -, hn, e⟩ | ⟨v, -, -, e⟩ <;> rw [e]
  · exact h
  · have hn' : (s.n + 1#6).toNat = s.n.toNat + 1 := by bv_omega
    refine hkeep (by omega) fun i hi hlt => ?_
    rw [nibAt_set _ _ _ _ (by omega), if_neg (by omega), h.1.unused_digits i (by omega) hlt]
  · refine hkeep (by decide) fun i hi hlt => ?_
    have : 37 ≤ i := hi
    omega

theorem State.Inv.goCheck {s : State} (h : s.Inv) (hp : s.ph = Phase.collect) :
    (s.goPhase Phase.check).Inv :=
  h.withDigits hp (.inr rfl) h.1.count h.1.unused_digits

/-- Outside COLLECT `f` does not run, so only what it does in COLLECT counts. -/
theorem State.Inv.inCall {s : State} (h : s.Inv) {f : State → State}
    (hf : s.ph = Phase.collect → (f s).Inv) : (s.inCall f).Inv := by
  by_cases hp : s.ph = Phase.collect
  · rw [State.inCall_collect hp]
    exact hf hp
  · rw [State.inCall_other hp]
    exact h.setPerr

theorem State.Inv.execToken {s t : State} (h : s.Inv) (hr : s.ready = true) {w : TokenWord}
    (ht : exec (decodeToken w) s = .next t) : t.Inv := by
  rcases exec_token_cases hr ht with ⟨-, rfl⟩ | ⟨c, -, rfl⟩ | ⟨-, rfl⟩ | ⟨-, rfl⟩
  · exact s.beginCall_inv
  · exact h.inCall fun hp => h.takeChar hp c
  · exact h.inCall h.goCheck
  · exact h.setPerr

/-! ## U.CHECK -/

/-- The two numbers that ChecksumMismatch records differ (R29 (e)). -/
theorem checksums_differ {nib : Vector Nibble 36} {L : Nat} (h : checksumCorrect nib L = false) :
    byteAt nib L ++ byteAt nib (L + 1) ≠
      (crcBytes (secretOf nib L)).1 ++ (crcBytes (secretOf nib L)).2 := by
  intro e
  have h0 := congrArg (BitVec.extractLsb' 8 8) e
  have h1 := congrArg (BitVec.extractLsb' 0 8) e
  rw [BitVec.extractLsb'_append_eq_left, BitVec.extractLsb'_append_eq_left] at h0
  rw [BitVec.extractLsb'_append_eq_right, BitVec.extractLsb'_append_eq_right] at h1
  simp [checksumCorrect, h0, h1] at h

/-- An error that U.CHECK raises, whatever it has written to `L` and `crc`. -/
theorem State.Inv.raiseError {s : State} (h : s.Inv) (hp : s.ph = Phase.check) (L : BitVec 5)
    (crc : Word16) {e : ErrorClass}
    (he : e = .invalidLength ∨ ∃ cg cc, cg ≠ cc ∧ e = .checksumMismatch cg cc) :
    (State.raiseError { s with L := L, crc := crc } e).Inv := by
  have hd := h.diag_zero (by simp [hp])
  have hb := h.2.before_pad (by simp [State.hashing, hp])
  rcases he with rfl | ⟨cg, cc, hne, rfl⟩ <;>
  · constructor
    · constructor
      case count => simpa using h.1.count
      case unused_digits => simpa using h.1.unused_digits
      all_goals simp [errorCode, State.passed, *]
    · constructor <;> simp [State.passed, State.hashing, errorCode, hb]

theorem State.Inv.checkCall {s : State} (h : s.Inv) (hp : s.ph = Phase.check) : s.checkCall.Inv := by
  rcases s.checkCall_cases with ⟨-, e⟩ | ⟨-, hc, e⟩ | ⟨hl, hc, e⟩ <;> rw [e]
  · exact h.raiseError hp s.L s.crc (.inl rfl)
  · exact h.raiseError hp _ _ (.inr ⟨_, _, checksums_differ hc, rfl⟩)
  · have hst := h.status_none (by simp [hp])
    have hd := h.diag_zero (by simp [hp])
    have hb := h.2.before_pad (by simp [State.hashing, hp])
    constructor
    · constructor
      case count => exact h.1.count
      case unused_digits => exact h.1.unused_digits
      case checked => exact fun _ => ⟨(legalCount_iff _).mp hl, secretLen_toNat hl, hc⟩
      all_goals simp [*]
    · constructor <;> simp [State.hashing, State.secret, hb]

/-! ## U.PAD and U.HASH -/

theorem State.Inv.legalLen_of_passed {s : State} (h : s.Inv) (hp : s.passed) :
    legalLen s.L = true := by
  obtain ⟨hn, hL, -⟩ := h.1.checked hp
  rw [legalLen_iff]
  omega

/-- The Padded Message of a legal length fills one block or two (R124). -/
theorem paddedBlocks_of_legalLen {L : BitVec 5} (h : legalLen L = true) :
    (BitVec.ofNat 2 (paddedLen L.toNat / 16) = 1#2 ∨ BitVec.ofNat 2 (paddedLen L.toNat / 16) = 2#2) ∧
      16 * (BitVec.ofNat 2 (paddedLen L.toNat / 16)).toNat = paddedLen L.toNat := by
  revert L
  decide

theorem State.Inv.padMessage {s : State} (h : s.Inv) (hp : s.ph = Phase.pad) : s.padMessage.Inv := by
  have hpass : s.passed := .inl hp
  have hst := h.status_none (by simp [hp])
  have hd := h.diag_zero (by simp [hp])
  obtain ⟨hcount, hfull⟩ := paddedBlocks_of_legalLen (h.legalLen_of_passed hpass)
  constructor
  · constructor
    case count => exact h.1.count
    case unused_digits => exact h.1.unused_digits
    case checked => exact fun _ => h.1.checked hpass
    case block_left =>
      refine fun _ => ⟨hcount, ?_⟩
      rcases hcount with e | e <;> simp [e]
    all_goals simp [*]
  · constructor
    case crc_run => exact fun _ => h.2.crc_run hpass
    case message => exact fun _ => pmAt_padBuffer _ _
    case block_count => exact fun _ => by simpa [State.secret, pad_length] using hfull
    all_goals simp [State.hashing]

/-- U.HASH computes the next Chaining State of the secret's Padded Message (R152). -/
theorem State.Inv.compress_eq_chain {s : State} (h : s.Inv) (hp : s.ph = Phase.hash)
    (hb : s.blk.toNat < 2) :
    compress s.H (memReadBlock s.pm (16 * s.blk.toNat)) = chain (pad s.secret) (s.blk + 1#2).toNat := by
  have hh : s.hashing := .inl hp
  have hnext : (s.blk + 1#2).toNat = s.blk.toNat + 1 := by bv_omega
  rw [hnext, chain_succ, ← h.2.chaining hh, memReadBlock_eq_blockOf hb (h.2.message hh)]

/-- After the last block that state is the Link Key (R153, R155). -/
theorem State.Inv.compress_eq_derive {s : State} (h : s.Inv) (hp : s.ph = Phase.hash)
    (hb : s.blk.toNat < 2) (hlast : s.blk + 1#2 = s.nblk) :
    compress s.H (memReadBlock s.pm (16 * s.blk.toNat)) = derive s.secret := by
  rw [h.compress_eq_chain hp hb, hlast, derive, ← h.2.block_count (.inl hp),
    Nat.mul_div_cancel_left _ (by decide)]

/-- What the working registers hold after a block, in HASH or in DONE with OK. -/
theorem State.Inv.workFacts_nextBlock {s : State} (h : s.Inv) (hp : s.ph = Phase.hash)
    (hb : s.blk.toNat < 2) {p : PhaseWord} {st : BitVec 3}
    (hnext : p = Phase.hash ∨ (p = Phase.done ∧ st = Status.ok)) :
    State.WorkFacts { s with H := compress s.H (memReadBlock s.pm (16 * s.blk.toNat)),
                             blk := s.blk + 1#2, st := st, ph := p } where
  before_check hc := by rcases hnext with rfl | ⟨rfl, -⟩ <;> simp at hc
  before_pad hn := absurd hnext hn
  crc_run _ := h.2.crc_run (.inr (.inl hp))
  message _ := h.2.message (.inl hp)
  block_count _ := h.2.block_count (.inl hp)
  chaining _ := h.compress_eq_chain hp hb

theorem State.Inv.hashBlock {s : State} (h : s.Inv) (hp : s.ph = Phase.hash)
    (hlt : s.blk.toNat < s.nblk.toNat) (hb : s.blk.toNat < 2) : s.hashBlock.Inv := by
  have hpass : s.passed := .inr (.inl hp)
  have hst := h.status_none (by simp [hp])
  have hd := h.diag_zero (by simp [hp])
  rcases s.hashBlock_cases with ⟨hlast, e⟩ | ⟨hmore, e⟩ <;> rw [e]
  · refine ⟨?_, h.workFacts_nextBlock hp hb (.inr ⟨rfl, rfl⟩)⟩
    constructor
    case count => exact h.1.count
    case unused_digits => exact h.1.unused_digits
    case checked => exact fun _ => h.1.checked hpass
    case key_derived => exact fun _ => h.compress_eq_derive hp hb hlast
    all_goals simp [*]
  · refine ⟨?_, h.workFacts_nextBlock hp hb (.inl hp)⟩
    constructor
    case count => exact h.1.count
    case unused_digits => exact h.1.unused_digits
    case checked => exact fun _ => h.1.checked hpass
    case block_left => exact fun _ => ⟨(h.1.block_left hp).1, by bv_omega⟩
    all_goals simp [*]

/-! ## The invariant at reset and from step to step -/

/-- Settles O53: reset is the case IDLE of `inv_reset_values`. -/
theorem invariantAtReset : Obligations.InvariantAtReset := inv_reset_values (.inl rfl)

/-- Settles O54, by the effects that a step can have. -/
theorem everyStepKeepsInvariant : Obligations.EveryStepKeepsInvariant := by
  intro s t h hstep
  have hpop := h.popInput
  rcases step_cases hstep with ⟨-, rfl⟩ | ⟨-, hr, -, he⟩ | ⟨-, -, -, rfl⟩ | ⟨-, hp, rfl⟩ |
    ⟨-, hp, -, rfl⟩ | ⟨-, hp, hlt, hb, rfl⟩
  · exact s.popInput.resetEvent_inv
  · exact hpop.execToken hr he
  · exact hpop
  · exact hpop.checkCall hp
  · exact hpop.padMessage hp
  · exact hpop.hashBlock hp hlt hb

/-- The invariant holds in every reachable state. -/
theorem Reachable.inv {s : State} (h : Reachable s) : s.Inv := by
  induction h with
  | reset ins => exact invariantAtReset ins
  | step _ hstep ih => exact everyStepKeepsInvariant _ _ ih hstep

/-- Settles O56, from O53 and O54. -/
theorem reachableStatesMeetListedFacts : Obligations.ReachableStatesMeetListedFacts :=
  fun _ h => h.inv.1

end Sys2Proof.Machine

/-! PROOFS. What the ports show (O1, O50, O51). -/

namespace Sys2Proof.Machine

theorem State.key_getElem_of_not_ok {s : State} (h : s.st ≠ Status.ok) (i : Fin 16) :
    s.key[i] = 0x00#8 := by
  rw [State.key_of_not_ok h]
  exact zeroBlock_getElem i.val i.isLt

/-- Settles O1: the registers by the reset laws, the ports from them. -/
theorem resetValuesAsListed : Obligations.ResetValuesAsListed :=
  ⟨⟨rfl, rfl, fun i _ => nibAt_zero i, rfl, rfl, fun a _ => pmAt_zero a, rfl, rfl,
      fun i => zeroBlock_getElem i.val i.isLt, rfl, rfl, rfl, rfl⟩,
    rfl, rfl, rfl, rfl, State.key_getElem_of_not_ok (by simp), rfl, rfl⟩

/-- Settles O50, from the laws of the ports. -/
theorem portsReadTheRegisters : Obligations.PortsReadTheRegisters := fun s =>
  ⟨s.ready_iff, s.done_iff, rfl, rfl, fun h _ => by rw [State.key_of_ok h],
    State.key_getElem_of_not_ok, rfl, rfl⟩

/-- Settles O51, from the facts of R29 (b) and (h). -/
theorem keyShownOnlyAfterOk : Obligations.KeyShownOnlyAfterOk := by
  intro s hs
  have hfacts := hs.inv.1
  have hok (h : s.st = Status.ok) : s.done = true ∧ s.key = derive s.secret := by
    refine ⟨s.done_iff.mpr (hfacts.status_iff_done.mp (by simp [h])), ?_⟩
    rw [State.key_of_ok h, hfacts.key_derived h]
  refine ⟨hok, State.key_of_not_ok, fun hkey => ?_, fun hp => ?_⟩
  · have hst : s.st = Status.ok := not_not.mp fun h => hkey (State.key_of_not_ok h)
    exact ⟨(hok hst).1, hst, (hok hst).2⟩
  · exact State.key_of_not_ok (by simp [hs.inv.status_none, hp])

end Sys2Proof.Machine

/-! PROOFS. Which step is enabled in a state and where it leads (O8, O10, O11, O12, O55, O57). -/

namespace Sys2Proof.Machine

/-! ## Fetch and step, phase by phase -/

theorem fetch_of_token {s : State} (hr : s.input.rst = false) (hy : s.ready = true)
    (hv : s.input.tokValid = true) : fetch s = .run (decodeToken s.input.tok) := by
  simp only [fetch, hr, hy, hv, if_true, Bool.false_eq_true, if_false]

theorem fetch_of_no_token {s : State} (hr : s.input.rst = false) (hy : s.ready = true)
    (hv : s.input.tokValid = false) : fetch s = .wait := by
  simp only [fetch, hr, hy, hv, if_true, Bool.false_eq_true, if_false]

theorem fetch_of_select {s : State} {i : Instr} (hr : s.input.rst = false)
    (h : decodeSelect s.ph = .ok i) : fetch s = .run i := by
  have hy : s.ready = false := by
    rw [State.not_ready_iff]
    rcases decodeSelect_ok h with ⟨hp, -⟩ | ⟨hp, -⟩ | ⟨hp, -⟩ <;> simp [hp]
  simp only [fetch, hr, hy, h, Bool.false_eq_true, if_false]

theorem State.not_ready_of_unused_phase {s : State} (hp : s.ph = 6#3 ∨ s.ph = 7#3) :
    s.ready = false := by
  rw [State.not_ready_iff]
  rcases hp with hp | hp <;> simp [hp]

theorem fetch_of_unused_phase {s : State} (hr : s.input.rst = false) (hp : s.ph = 6#3 ∨ s.ph = 7#3) :
    fetch s = .stuck := by
  have hy := State.not_ready_of_unused_phase hp
  have hd : decodeSelect s.ph = .error .unusedPhaseCode := by
    rcases hp with hp | hp <;> rw [hp] <;> rfl
  simp only [fetch, hr, hy, hd, Bool.false_eq_true, if_false]

theorem fetch_of_reset {s : State} (hr : s.input.rst = true) : fetch s = .reset := by
  simp only [fetch, hr, if_true]

theorem step_of_run {s : State} {i : Instr} (h : fetch s = .run i) : step s = exec i s.popInput := by
  simp only [step, h]

theorem step_of_wait {s : State} (h : fetch s = .wait) : step s = .next s.popInput := by
  simp only [step, h]

theorem step_of_reset {s : State} (h : fetch s = .reset) : step s = .next s.popInput.resetEvent := by
  simp only [step, h]

theorem step_of_stuck {s : State} (h : fetch s = .stuck) : step s = .fault .stuckPhase := by
  simp only [step, h]

/-- Settles O8, from what `fetch` answers for a token, a phase code and no token. -/
theorem stepRunsTheDecodedInstruction : Obligations.StepRunsTheDecodedInstruction := by
  intro s i hr
  refine ⟨fun hy hv hd => ?_, fun hd => step_of_run (fetch_of_select hr hd),
    fun hy hv => step_of_wait (fetch_of_no_token hr hy hv)⟩
  have hi : decodeToken s.input.tok = i := by injection hd
  rw [step_of_run (fetch_of_token hr hy hv), hi]

/-- Settles O11: `fetch` answers `stuck`, unless reset wins. -/
theorem unusedPhaseCodesAreStuck : Obligations.UnusedPhaseCodesAreStuck := by
  intro s hp
  refine ⟨State.not_ready_of_unused_phase hp, ?_, fun hr => step_of_stuck (fetch_of_unused_phase hr hp),
    fun hr => step_of_reset (fetch_of_reset hr)⟩
  rw [Bool.eq_false_iff, ne_eq, State.done_iff]
  rcases hp with hp | hp <;> simp [hp]

/-- Settles O12: each is a `controllerStep` of its own phase. -/
theorem microOpRefusedOutsideItsPhase : Obligations.MicroOpRefusedOutsideItsPhase :=
  fun s => ⟨fun h => (exec_uCheck s).trans (controllerStep_of_other h),
    fun h => (exec_uPad s).trans (controllerStep_of_other h),
    fun h => (exec_uHash s).trans (controllerStep_of_other h)⟩

/-! ## Which steps move the phase -/

@[simp] theorem State.takeChar_ph (c : Byte) (s : State) : (s.takeChar c).ph = s.ph := by
  rcases s.takeChar_cases c with ⟨-, e⟩ | ⟨v, -, -, e⟩ | ⟨v, -, -, e⟩ <;> simp [e]

theorem State.inCall_ph_of_ne {f : State → State} {s : State} (h : (s.inCall f).ph ≠ s.ph) :
    s.ph = Phase.collect ∧ s.inCall f = f s := by
  by_cases hp : s.ph = Phase.collect
  · exact ⟨hp, State.inCall_collect hp⟩
  · exact absurd (by rw [State.inCall_other hp, State.setPerr_ph]) h

theorem State.checkCall_ph (s : State) : s.checkCall.ph = Phase.pad ∨ s.checkCall.ph = Phase.done := by
  rcases s.checkCall_cases with ⟨-, e⟩ | ⟨-, -, e⟩ | ⟨-, -, e⟩ <;> simp [e]

theorem State.hashBlock_ph (s : State) : s.hashBlock.ph = s.ph ∨ s.hashBlock.ph = Phase.done := by
  rcases s.hashBlock_cases with ⟨-, e⟩ | ⟨-, e⟩ <;> simp [e]

/-- The tokens that move the phase: START, and END in COLLECT. -/
theorem exec_token_moves_phase {s t : State} {w : TokenWord} (hr : s.ready = true)
    (h : exec (decodeToken w) s = .next t) (hne : t.ph ≠ s.ph) :
    (decodeToken w = .start ∧ t.ph = Phase.collect) ∨
    (decodeToken w = .endTok ∧ s.ph = Phase.collect ∧ t.ph = Phase.check) := by
  rcases exec_token_cases hr h with ⟨hw, rfl⟩ | ⟨c, -, rfl⟩ | ⟨hw, rfl⟩ | ⟨-, rfl⟩
  · exact .inl ⟨hw, rfl⟩
  · obtain ⟨-, e⟩ := State.inCall_ph_of_ne hne
    exact absurd (by rw [e, State.takeChar_ph]) hne
  · obtain ⟨hp, e⟩ := State.inCall_ph_of_ne hne
    exact .inr ⟨hw, hp, by rw [e, State.goPhase_ph]⟩
  · exact absurd s.setPerr_ph hne

/-- Settles O10: the enabled steps by `fetch`, the transitions by the effects that a step can have. -/
theorem phaseTransitionsAsListed : Obligations.PhaseTransitionsAsListed := by
  intro s
  have hselect {p i} (hd : decodeSelect p = .ok i) (hp : s.ph = p) (hr : s.input.rst = false) :
      fetch s = .run i := fetch_of_select hr (hp ▸ hd)
  refine ⟨fun hp hr => ?_, hselect rfl, hselect rfl, hselect rfl,
    fun hp hr => fetch_of_unused_phase hr hp, fun t hstep hne => ?_⟩
  · have hy := s.ready_iff.mpr hp
    exact ⟨fetch_of_token hr hy, fetch_of_no_token hr hy⟩
  rcases step_cases hstep with ⟨hr, rfl⟩ | ⟨hr, hy, hv, he⟩ | ⟨-, -, -, rfl⟩ | ⟨hr, hp, rfl⟩ |
    ⟨hr, hp, -, rfl⟩ | ⟨hr, hp, -, -, rfl⟩
  · exact .inl ⟨hr, rfl⟩
  · have hf := fetch_of_token hr hy hv
    rcases exec_token_moves_phase (s := s.popInput) hy he hne with ⟨hw, ht⟩ | ⟨hw, hp, ht⟩
    · exact .inr (.inl ⟨hw ▸ hf, s.ready_iff.mp hy, ht⟩)
    · exact .inr (.inr (.inl ⟨hw ▸ hf, hp, ht⟩))
  · exact absurd s.popInput_ph hne
  · exact .inr (.inr (.inr (.inl ⟨hselect rfl hp hr, hp, s.popInput.checkCall_ph⟩)))
  · exact .inr (.inr (.inr (.inr (.inl ⟨hselect rfl hp hr, hp, rfl⟩))))
  · exact .inr (.inr (.inr (.inr (.inr
      ⟨hselect rfl hp hr, hp, s.popInput.hashBlock_ph.resolve_left hne⟩))))

/-! ## Steps that complete -/

theorem hostStep_completes (f : State → State) (s : State) : ∃ t, hostStep f s = .next t := by
  cases hr : s.ready with
  | true => exact ⟨_, hostStep_of_ready hr⟩
  | false => exact ⟨_, hostStep_of_busy hr⟩

/-- A token is never refused. -/
theorem exec_token_completes (w : TokenWord) (s : State) : ∃ t, exec (decodeToken w) s = .next t := by
  have hk := decodeToken_isToken w
  generalize decodeToken w = i at hk
  cases i with
  | start => exact hostStep_completes _ s
  | char c => exact hostStep_completes _ s
  | endTok => exact hostStep_completes _ s
  | rsvd0 arg => exact hostStep_completes _ s
  | rsvd2 arg => exact hostStep_completes _ s
  | rsvd3 arg => exact hostStep_completes _ s
  | uCheck => cases hk
  | uPad => cases hk
  | uHash => cases hk

theorem execUCheck_of_phase {s : State} (hp : s.ph = Phase.check) : execUCheck s = .next s.checkCall :=
  controllerStep_of_phase hp

theorem execUPad_of_legalLen {s : State} (hp : s.ph = Phase.pad) (hl : legalLen s.L = true) :
    execUPad s = .next s.padMessage :=
  (controllerStep_of_phase hp).trans (if_pos hl)

theorem execUHash_of_block_left {s : State} (hp : s.ph = Phase.hash)
    (hlt : s.blk.toNat < s.nblk.toNat) (hb : s.blk.toNat < 2) : execUHash s = .next s.hashBlock := by
  have h1 : ¬ s.nblk ≤ s.blk := by simpa [BitVec.le_def] using hlt
  have h2 : ¬ 2#2 ≤ s.blk := by simpa [BitVec.le_def] using hb
  exact (controllerStep_of_phase hp).trans ((if_neg h1).trans (if_neg h2))

/-- Settles O55: R29 (a) excludes the unused phases, (f) and (g) the refusals of U.PAD and U.HASH. -/
theorem stepAlwaysCompletes : Obligations.StepAlwaysCompletes := by
  intro s h
  rcases fetch_cases s with ⟨-, hf⟩ | ⟨-, -, -, hf⟩ | ⟨-, -, -, hf⟩ | ⟨-, hp, hf⟩ | ⟨-, hp, hf⟩ |
    ⟨-, hp, hf⟩ | ⟨-, hp, -⟩
  · exact ⟨_, step_of_reset hf⟩
  · rw [step_of_run hf]
    exact exec_token_completes _ _
  · exact ⟨_, step_of_wait hf⟩
  · exact ⟨_, (step_of_run hf).trans (execUCheck_of_phase hp)⟩
  · exact ⟨_, (step_of_run hf).trans (execUPad_of_legalLen hp (h.legalLen_of_passed (.inl hp)))⟩
  · obtain ⟨hcount, hlt⟩ := h.1.block_left hp
    have hle : s.nblk.toNat ≤ 2 := by rcases hcount with e | e <;> simp [e]
    have hb : s.blk.toNat < 2 := by omega
    exact ⟨_, (step_of_run hf).trans (execUHash_of_block_left hp hlt hb)⟩
  · have := h.1.phase
    rcases hp with hp | hp <;> simp [hp] at this

/-! ## START forgets -/

/-- Of the old state START keeps only what the host will pass (R81). -/
theorem State.beginCall_congr {s s' : State} (h : s.inputs = s'.inputs) : s.beginCall = s'.beginCall := by
  simp only [State.beginCall, h]

theorem step_of_start {s : State} {rest : List HostCycle} (hy : s.ready = true)
    (hin : s.inputs = HostCycle.offer (tokenWord 0b00#2 0x00#8) :: rest) :
    step s = .next s.popInput.beginCall := by
  have hi := s.input_of_cons _ _ hin
  have hf : fetch s = .run .start := by
    rw [fetch_of_token (by rw [hi]; rfl) hy (by rw [hi]; rfl), hi]
    rfl
  rw [step_of_run hf]
  exact hostStep_of_ready hy

/-- Settles O57: after START the two runs are in the same state. -/
theorem callsAreIndependent : Obligations.CallsAreIndependent := by
  intro s s' rest k hy hy' hin heq
  have hsame : s.popInput.beginCall = s'.popInput.beginCall :=
    State.beginCall_congr (by simp [heq])
  rw [run_of_next (step_of_start hy hin), run_of_next (step_of_start hy' (heq.trans hin)), hsame]

end Sys2Proof.Machine

/-! PROOFS. No rule reads `perr` (O58): whatever is computed from a state is alike, in the sense that fits its
type, when the flag is another. -/

namespace Sys2Proof.Machine

/-- `s` with the flag at `b`. -/
def State.withPerr (s : State) (b : Bool) : State := { s with perr := b }

/-- `f` gives results that `R` relates on states that differ in the flag alone. -/
def PerrBlind {α : Type} (R : α → α → Prop) (f : State → α) : Prop :=
  ∀ (s : State) (b : Bool), R (f s) (f (s.withPerr b))

/-- A choice that does not read the flag, between results that do not. -/
theorem PerrBlind.ite {α : Type} {R : α → α → Prop} {p : State → Prop} [DecidablePred p]
    {f g : State → α} (hp : PerrBlind Iff p) (hf : PerrBlind R f) (hg : PerrBlind R g) :
    PerrBlind R fun s => if p s then f s else g s := by
  intro s b
  by_cases h : p s
  · simpa only [if_pos h, if_pos ((hp s b).mp h)] using hf s b
  · simpa only [if_neg h, if_neg (mt (hp s b).mpr h)] using hg s b

/-! ## The effects on the state -/

theorem perrBlind_id : PerrBlind State.EqButPerr fun s => s := fun _ _ => rfl

theorem perrBlind_setPerr : PerrBlind State.EqButPerr State.setPerr := fun _ _ => rfl

theorem perrBlind_beginCall : PerrBlind State.EqButPerr State.beginCall := fun _ _ => rfl

theorem perrBlind_goPhase (p : PhaseWord) : PerrBlind State.EqButPerr fun s => s.goPhase p :=
  fun _ _ => rfl

theorem perrBlind_takeChar (c : Byte) : PerrBlind State.EqButPerr (State.takeChar c) := by
  unfold State.takeChar
  cases hexval c with
  | none => exact perrBlind_id
  | some v => exact .ite (fun _ _ => .rfl) (fun _ _ => rfl) (fun _ _ => rfl)

theorem PerrBlind.inCall {f : State → State} (hf : PerrBlind State.EqButPerr f) :
    PerrBlind State.EqButPerr (State.inCall f) :=
  .ite (fun _ _ => .rfl) hf perrBlind_setPerr

theorem perrBlind_compareChecksum : PerrBlind State.EqButPerr State.compareChecksum :=
  .ite (fun _ _ => .rfl) (fun _ _ => rfl) (fun _ _ => rfl)

theorem perrBlind_checkCall : PerrBlind State.EqButPerr State.checkCall :=
  .ite (fun _ _ => .rfl) (fun _ _ => rfl) (.ite (fun _ _ => .rfl) (fun _ _ => rfl) perrBlind_compareChecksum)

theorem perrBlind_padMessage : PerrBlind State.EqButPerr State.padMessage := fun _ _ => rfl

theorem perrBlind_hashBlock : PerrBlind State.EqButPerr State.hashBlock :=
  .ite (fun _ _ => .rfl) (fun _ _ => rfl) (fun _ _ => rfl)

/-! ## Instructions and the step -/

theorem PerrBlind.next {f : State → State} (hf : PerrBlind State.EqButPerr f) :
    PerrBlind outcomesEqButPerr fun s => .next (f s) := hf

theorem perrBlind_refused (r : Refusal) : PerrBlind outcomesEqButPerr fun _ => .refused r :=
  fun _ _ => rfl

theorem PerrBlind.hostStep {f : State → State} (hf : PerrBlind State.EqButPerr f) :
    PerrBlind outcomesEqButPerr (hostStep f) :=
  .ite (fun _ _ => .rfl) hf.next perrBlind_id.next

theorem PerrBlind.controllerStep {p : PhaseWord} {f : State → Host.Outcome State Fault Refusal}
    (hf : PerrBlind outcomesEqButPerr f) : PerrBlind outcomesEqButPerr (controllerStep p f) :=
  .ite (fun _ _ => .rfl) hf (perrBlind_refused _)

theorem perrBlind_exec (i : Instr) : PerrBlind outcomesEqButPerr (exec i) := by
  cases i with
  | start => exact perrBlind_beginCall.hostStep
  | char c => exact (perrBlind_takeChar c).inCall.hostStep
  | endTok => exact (perrBlind_goPhase _).inCall.hostStep
  | rsvd0 arg => exact perrBlind_setPerr.hostStep
  | rsvd2 arg => exact perrBlind_setPerr.hostStep
  | rsvd3 arg => exact perrBlind_setPerr.hostStep
  | uCheck => exact perrBlind_checkCall.next.controllerStep
  | uPad =>
    exact (PerrBlind.ite (fun _ _ => .rfl) perrBlind_padMessage.next (perrBlind_refused _)).controllerStep
  | uHash =>
    exact (PerrBlind.ite (fun _ _ => .rfl) (perrBlind_refused _)
      (.ite (fun _ _ => .rfl) (perrBlind_refused _) perrBlind_hashBlock.next)).controllerStep

theorem perrBlind_fetch : PerrBlind Eq fetch := fun _ _ => rfl

/-- The same step is enabled, and its effect does not read the flag. -/
theorem perrBlind_step : PerrBlind outcomesEqButPerr step := by
  intro s b
  have hb := (perrBlind_fetch s b).symm
  cases hf : fetch s with
  | reset =>
    rw [step_of_reset hf, step_of_reset (hb.trans hf)]
    exact rfl
  | run i =>
    rw [step_of_run hf, step_of_run (hb.trans hf)]
    exact perrBlind_exec i s.popInput b
  | wait =>
    rw [step_of_wait hf, step_of_wait (hb.trans hf)]
    exact rfl
  | stuck =>
    rw [step_of_stuck hf, step_of_stuck (hb.trans hf)]
    exact rfl

/-- Settles O58, by `perrBlind_step`. -/
theorem perrInfluencesNothing : Obligations.PerrInfluencesNothing := perrBlind_step

end Sys2Proof.Machine

/-! PROOFS. The frame of the tokens CHAR, END and RSVD (O21). -/

namespace Sys2Proof.Machine

/-- CHAR writes the count and the digit buffer, the buffer at most at the index that the count gives (R82 to
R84). -/
theorem State.takeChar_writes_digits (c : Byte) (s : State) :
    ∃ (n : BitVec 6) (nib : Vector Nibble 36), s.takeChar c = { s with n := n, nib := nib } ∧
      ∀ j : Nat, j ≠ s.n.toNat → nibAt nib j = nibAt s.nib j := by
  rcases s.takeChar_cases c with ⟨-, e⟩ | ⟨v, -, hn, e⟩ | ⟨v, -, -, e⟩
  · exact ⟨s.n, s.nib, e, fun _ _ => rfl⟩
  · refine ⟨s.n + 1#6, s.nib.setIfInBounds s.n.toNat v, e, fun j hj => ?_⟩
    rw [nibAt_set _ _ _ _ (by omega), if_neg hj]
  · exact ⟨nSat, s.nib, e, fun _ _ => rfl⟩

theorem State.inCall_cases (f : State → State) (s : State) : s.inCall f = f s ∨ s.inCall f = s.setPerr := by
  by_cases hp : s.ph = Phase.collect
  · exact .inl (State.inCall_collect hp)
  · exact .inr (State.inCall_other hp)

/-- All that a token of an open call can do: its effect in COLLECT, a protocol error in IDLE and DONE, nothing
while `ready` = 0. -/
theorem hostStep_inCall_cases {f : State → State} {s t : State} (h : hostStep (State.inCall f) s = .next t) :
    t = s ∨ t = s.setPerr ∨ t = f s := by
  rcases hostStep_next h with ⟨-, rfl⟩ | ⟨-, rfl⟩
  · rcases s.inCall_cases f with e | e
    · exact .inr (.inr e)
    · exact .inr (.inl e)
  · exact .inl rfl

theorem hostStep_setPerr_cases {s t : State} (h : hostStep State.setPerr s = .next t) :
    t = s ∨ t = s.setPerr := by
  rcases hostStep_next h with ⟨-, rfl⟩ | ⟨-, rfl⟩
  · exact .inr rfl
  · exact .inl rfl

/-- All that a token other than START can do in any state (R82 to R88). -/
theorem exec_token_effect {i : Instr} {s t : State} (hi : i.isToken = true) (hstart : i ≠ .start)
    (h : exec i s = .next t) :
    t = s ∨ t = s.setPerr ∨ (i = .endTok ∧ t = s.goPhase Phase.check) ∨
      ∃ c, i = .char c ∧ t = s.takeChar c := by
  cases i with
  | start => exact absurd rfl hstart
  | char c => exact (hostStep_inCall_cases h).imp_right (.imp_right fun e => .inr ⟨c, rfl, e⟩)
  | endTok => exact (hostStep_inCall_cases h).imp_right (.imp_right fun e => .inl ⟨rfl, e⟩)
  | rsvd0 arg => exact (hostStep_setPerr_cases h).imp_right .inl
  | rsvd2 arg => exact (hostStep_setPerr_cases h).imp_right .inl
  | rsvd3 arg => exact (hostStep_setPerr_cases h).imp_right .inl
  | uCheck => cases hi
  | uPad => cases hi
  | uHash => cases hi

/-- Settles O21, by the effects that these tokens can have. -/
theorem tokenFrame : Obligations.TokenFrame := by
  intro s t i hi hstart h
  rcases exec_token_effect hi hstart h with rfl | rfl | ⟨rfl, rfl⟩ | ⟨c, rfl, rfl⟩
  · simp
  · simp
  · simp
  · obtain ⟨n, nib, e, hnib⟩ := s.takeChar_writes_digits c
    simpa [e] using hnib

end Sys2Proof.Machine

/-! PROOFS. The byte order of the flattened key and of the byte view (O52, O23). -/

namespace Sys2Proof.Machine

/-- One more byte below those of `acc`, the step by which `flattenBlock` goes through the block. -/
def appendByte (acc : BitVec 128) (x : Byte) : BitVec 128 := (acc <<< 8) ||| x.setWidth 128

theorem flattenBlock_eq_foldl (b : Block) : flattenBlock b = b.toList.foldl appendByte 0#128 := rfl

/-- The byte appended is the lowest. -/
theorem extractLsb'_appendByte_zero (acc : BitVec 128) (x : Byte) :
    (appendByte acc x).extractLsb' 0 8 = x := by
  ext j hj
  have hlt : j < 128 := by omega
  simp [appendByte, hj, hlt]

/-- The bytes before it move up by one place. -/
theorem extractLsb'_appendByte_succ (acc : BitVec 128) (x : Byte) {k : Nat} (hk : k < 15) :
    (appendByte acc x).extractLsb' (8 * (k + 1)) 8 = acc.extractLsb' (8 * k) 8 := by
  ext j hj
  have hge : ¬ 8 * (k + 1) + j < 8 := by omega
  have hlt : 8 * (k + 1) + j < 128 := by omega
  have hacc : 8 * k + j < 128 := by omega
  have hsub : 8 * (k + 1) + j - 8 = 8 * k + j := by omega
  have hx : x.getLsbD (8 * (k + 1) + j) = false := BitVec.getLsbD_of_ge _ _ (by omega)
  simp [appendByte, hge, hlt, hacc, hsub, hx]

/-- Of up to sixteen bytes appended, the last first in `r`, byte `k` from below is `r[k]`. -/
theorem extractLsb'_foldr_appendByte {r : List Byte} (hr : r.length ≤ 16) {k : Nat} (hk : k < r.length) :
    (r.foldr (fun x acc => appendByte acc x) 0#128).extractLsb' (8 * k) 8 = r[k] := by
  induction r generalizing k with
  | nil => cases hk
  | cons x r ih =>
    rw [List.length_cons] at hr hk
    cases k with
    | zero => exact extractLsb'_appendByte_zero _ x
    | succ k => exact (extractLsb'_appendByte_succ _ x (by omega)).trans (ih (by omega) (by omega))

/-- Byte `k` from below of a flattened block is its byte `15 - k` (R51). -/
theorem extractLsb'_flattenBlock (b : Block) {k : Nat} (hk : k < 16) :
    (flattenBlock b).extractLsb' (8 * k) 8 = b[15 - k] := by
  rw [flattenBlock_eq_foldl, List.foldl_eq_foldr_reverse, extractLsb'_foldr_appendByte (by simp) (by simpa)]
  simp

/-- Settles O52: `key[i]` is byte `15 - i` from below. -/
theorem flattenedKeyByteOrder : Obligations.FlattenedKeyByteOrder := by
  intro s i
  have hplace : 120 - 8 * i.val = 8 * (15 - i.val) := by omega
  have hindex : 15 - (15 - i.val) = i.val := by omega
  rw [hplace, extractLsb'_flattenBlock _ (by omega)]
  simp only [hindex, Fin.getElem_fin]

/-- Settles O23, by `byteAt_toNat`. -/
theorem byteViewFirstDigitHigh : Obligations.ByteViewFirstDigitHigh := by
  intro nib i
  rw [byteAt_toNat, nibAt_of_lt nib (by omega), nibAt_of_lt nib (by omega), Nat.mul_comm]

end Sys2Proof.Machine

/-! PROOFS. Decoder and encoder (O3, O4, O5, O6, O7). -/

namespace Sys2Proof

open Laws.CodeWordMatchesRow (tokenWord_fields)

/-! ## A token is its two fields (R60) -/

@[simp] theorem tokenOp_tokenWord (op : BitVec 2) (arg : Byte) : tokenOp (tokenWord op arg) = op :=
  BitVec.extractLsb'_append_eq_left

@[simp] theorem tokenArg_tokenWord (op : BitVec 2) (arg : Byte) : tokenArg (tokenWord op arg) = arg :=
  BitVec.extractLsb'_append_eq_right

@[simp] theorem tokenWord_op_arg (w : TokenWord) : tokenWord (tokenOp w) (tokenArg w) = w :=
  BitVec.extractLsb'_append_extractLsb'_eq_extractLsb' (by decide) |>.trans BitVec.extractLsb'_eq_self

theorem tokenWord_toNat (op : BitVec 2) (arg : Byte) :
    (tokenWord op arg).toNat = 256 * op.toNat + arg.toNat := by
  rw [tokenWord, BitVec.toNat_append, ← Nat.shiftLeft_add_eq_or_of_lt arg.isLt, Nat.shiftLeft_eq,
    Nat.mul_comm]

/-- The mask of the opcode table reads the field `op`. -/
theorem eq_tokenWord_of_mask {w : TokenWord} {op : BitVec 2}
    (h : w &&& 0x300#10 = op.setWidth 10 <<< 8) : w = tokenWord op (w.setWidth 8) := by
  have hinj : ∀ a b : BitVec 2, a.setWidth 10 <<< 8 = b.setWidth 10 <<< 8 → a = b := by decide
  obtain ⟨hop, harg⟩ := tokenWord_fields (tokenOp w) (tokenArg w)
  rw [tokenWord_op_arg] at hop harg
  rw [← hinj _ _ (hop.symm.trans h), harg, tokenWord_op_arg]

/-! ## The rows of the token map (R61) -/

theorem decodeToken_start : decodeToken (tokenWord 0b00#2 0x00#8) = .start := rfl

theorem decodeToken_char (c : Byte) : decodeToken (tokenWord 0b01#2 c) = .char c := by
  simp [decodeToken]

theorem decodeToken_endTok : decodeToken (tokenWord 0b10#2 0x00#8) = .endTok := rfl

theorem decodeToken_rsvd0 {arg : Byte} (h : arg ≠ 0x00#8) :
    decodeToken (tokenWord 0b00#2 arg) = .rsvd0 arg := by
  simp [decodeToken, h]

theorem decodeToken_rsvd2 {arg : Byte} (h : arg ≠ 0x00#8) :
    decodeToken (tokenWord 0b10#2 arg) = .rsvd2 arg := by
  simp [decodeToken, h]

theorem decodeToken_rsvd3 (arg : Byte) : decodeToken (tokenWord 0b11#2 arg) = .rsvd3 arg := by
  simp [decodeToken]

/-- Case analysis on a token by the row that holds it. -/
theorem tokenWord_rows {P : TokenWord → Prop} (start : P (tokenWord 0b00#2 0x00#8))
    (char : ∀ c, P (tokenWord 0b01#2 c)) (endTok : P (tokenWord 0b10#2 0x00#8))
    (rsvd0 : ∀ arg, arg ≠ 0x00#8 → P (tokenWord 0b00#2 arg))
    (rsvd2 : ∀ arg, arg ≠ 0x00#8 → P (tokenWord 0b10#2 arg))
    (rsvd3 : ∀ arg, P (tokenWord 0b11#2 arg)) (w : TokenWord) : P w := by
  have hops : ∀ op : BitVec 2, op = 0b00#2 ∨ op = 0b01#2 ∨ op = 0b10#2 ∨ op = 0b11#2 := by decide
  rw [← tokenWord_op_arg w]
  generalize tokenArg w = arg
  rcases hops (tokenOp w) with h | h | h | h <;> rw [h]
  · by_cases harg : arg = 0x00#8
    · exact harg ▸ start
    · exact rsvd0 arg harg
  · exact char arg
  · by_cases harg : arg = 0x00#8
    · exact harg ▸ endTok
    · exact rsvd2 arg harg
  · exact rsvd3 arg

/-! ## Decoding undoes encoding -/

theorem decode_encode {i : Instr} (h : i.wf = true) : decode (encode i) = .ok i := by
  cases i with
  | start => rfl
  | char c => exact congrArg Except.ok (decodeToken_char c)
  | endTok => rfl
  | rsvd0 arg => exact congrArg Except.ok (decodeToken_rsvd0 (bne_iff_ne.mp h))
  | rsvd2 arg => exact congrArg Except.ok (decodeToken_rsvd2 (bne_iff_ne.mp h))
  | rsvd3 arg => exact congrArg Except.ok (decodeToken_rsvd3 arg)
  | uCheck => rfl
  | uPad => rfl
  | uHash => rfl

/-- The byte layout keeps the code word: the high bits that it leaves unused are 0. -/
theorem codeWordOfBytes_bytes (cw : CodeWord) : codeWordOfBytes cw.bytes = .ok cw := by
  cases cw with
  | token w =>
    have hlt : ((tokenOp w).setWidth 8).toNat < 4 := by
      rw [BitVec.toNat_setWidth_of_le (by decide)]
      exact (tokenOp w).isLt
    have hop : ((tokenOp w).setWidth 8).setWidth 2 = tokenOp w := BitVec.setWidth_setWidth_of_le _ (by decide)
    calc codeWordOfBytes [tokenArg w, (tokenOp w).setWidth 8]
      _ = .ok (.token (tokenWord (((tokenOp w).setWidth 8).setWidth 2) (tokenArg w))) := if_pos hlt
      _ = .ok (.token w) := by rw [hop, tokenWord_op_arg]
  | select p =>
    have hlt : (p.setWidth 8).toNat < 8 := by
      rw [BitVec.toNat_setWidth_of_le (by decide)]
      exact p.isLt
    have hp : (p.setWidth 8).setWidth 3 = p := by simp
    calc codeWordOfBytes [p.setWidth 8]
      _ = .ok (.select ((p.setWidth 8).setWidth 3)) := if_pos hlt
      _ = .ok (.select p) := by rw [hp]

theorem decodeBytes_bytes (cw : CodeWord) : decodeBytes cw.bytes = decode cw := by
  rw [decodeBytes, codeWordOfBytes_bytes]

/-- Settles O6: `decode_encode`, and the bytes give the code word back. -/
theorem encodeThenDecodeGivesItBack : Obligations.EncodeThenDecodeGivesItBack := fun i h =>
  ⟨decode_encode h, (decodeBytes_bytes (encode i)).trans (decode_encode h)⟩

/-! ## Encoding undoes decoding -/

theorem wf_and_encode_decodeToken (w : TokenWord) :
    (decodeToken w).wf = true ∧ encode (decodeToken w) = .token w := by
  induction w using tokenWord_rows with
  | start => exact ⟨rfl, rfl⟩
  | char c => rw [decodeToken_char]; exact ⟨rfl, rfl⟩
  | endTok => exact ⟨rfl, rfl⟩
  | rsvd0 arg h => rw [decodeToken_rsvd0 h]; exact ⟨bne_iff_ne.mpr h, rfl⟩
  | rsvd2 arg h => rw [decodeToken_rsvd2 h]; exact ⟨bne_iff_ne.mpr h, rfl⟩
  | rsvd3 arg => rw [decodeToken_rsvd3]; exact ⟨rfl, rfl⟩

/-- Settles O7: a token by its row, a phase code by `decodeSelect_ok`. -/
theorem decodeThenEncodeGivesItBack : Obligations.DecodeThenEncodeGivesItBack := by
  intro cw i h
  cases cw with
  | token w =>
    have hi : decodeToken w = i := by injection h
    exact hi ▸ wf_and_encode_decodeToken w
  | select p =>
    rcases Machine.decodeSelect_ok h with ⟨rfl, rfl⟩ | ⟨rfl, rfl⟩ | ⟨rfl, rfl⟩ <;> exact ⟨rfl, rfl⟩

/-! ## The size of each row -/

/-- The instructions of the 256 tokens with this `op`, in the order of `arg`. -/
def instrsOfOp (op : BitVec 2) : List Instr :=
  (List.range 256).map fun k => decodeToken (tokenWord op (BitVec.ofNat 8 k))

theorem ofNat_eq_tokenWord {k : Nat} (j : Nat) (hk : k < 256) :
    BitVec.ofNat 10 (256 * j + k) = tokenWord (BitVec.ofNat 2 j) (BitVec.ofNat 8 k) := by
  apply BitVec.eq_of_toNat_eq
  rw [tokenWord_toNat]
  simp only [BitVec.toNat_ofNat]
  omega

/-- The instructions of all token values, block by block. -/
theorem map_decodeToken_range (n : Nat) :
    (List.range (256 * n)).map (fun k => decodeToken (BitVec.ofNat 10 k)) =
      (List.range n).flatMap fun j => instrsOfOp (BitVec.ofNat 2 j) := by
  induction n with
  | zero => rfl
  | succ n ih =>
    have hblock : (List.range 256).map (fun k => decodeToken (BitVec.ofNat 10 (256 * n + k))) =
        instrsOfOp (BitVec.ofNat 2 n) :=
      List.map_congr_left fun k hk => congrArg decodeToken (ofNat_eq_tokenWord n (List.mem_range.mp hk))
    rw [Nat.mul_succ, List.range_add, List.map_append, ih, List.map_map, List.range_succ (n := n),
      List.flatMap_append, List.flatMap_singleton, ← hblock]
    rfl

/-- The arguments 0x01 to 0xFF. -/
def nonzeroArgs : List Byte := (List.range' 1 255).map (BitVec.ofNat 8)

@[simp] theorem length_nonzeroArgs : nonzeroArgs.length = 255 := by simp [nonzeroArgs]

theorem ne_zero_of_mem_nonzeroArgs {arg : Byte} (h : arg ∈ nonzeroArgs) : arg ≠ 0x00#8 := by
  obtain ⟨k, hk, rfl⟩ := List.mem_map.mp h
  rw [List.mem_range'_1] at hk
  intro e
  have := congrArg BitVec.toNat e
  simp only [BitVec.toNat_ofNat] at this
  omega

/-- The arguments 0x00 to 0xFF. -/
def allArgs : List Byte := 0x00#8 :: nonzeroArgs

theorem instrsOfOp_eq_map (op : BitVec 2) :
    instrsOfOp op = allArgs.map fun arg => decodeToken (tokenWord op arg) := by
  rw [instrsOfOp, List.range_eq_range', List.range'_succ, allArgs, nonzeroArgs]
  simp

theorem instrsOfOp_start_rsvd0 : instrsOfOp 0b00#2 = .start :: nonzeroArgs.map .rsvd0 := by
  rw [instrsOfOp_eq_map, allArgs, List.map_cons, decodeToken_start]
  exact congrArg _ (List.map_congr_left fun _ h => decodeToken_rsvd0 (ne_zero_of_mem_nonzeroArgs h))

theorem instrsOfOp_char : instrsOfOp 0b01#2 = allArgs.map .char :=
  (instrsOfOp_eq_map _).trans (List.map_congr_left fun arg _ => decodeToken_char arg)

theorem instrsOfOp_endTok_rsvd2 : instrsOfOp 0b10#2 = .endTok :: nonzeroArgs.map .rsvd2 := by
  rw [instrsOfOp_eq_map, allArgs, List.map_cons, decodeToken_endTok]
  exact congrArg _ (List.map_congr_left fun _ h => decodeToken_rsvd2 (ne_zero_of_mem_nonzeroArgs h))

theorem instrsOfOp_rsvd3 : instrsOfOp 0b11#2 = allArgs.map .rsvd3 :=
  (instrsOfOp_eq_map _).trans (List.map_congr_left fun arg _ => decodeToken_rsvd3 arg)

/-- All token values, row by row. -/
theorem map_decodeToken_rows :
    (List.range 1024).map (fun k => decodeToken (BitVec.ofNat 10 k)) =
      .start :: nonzeroArgs.map .rsvd0 ++ allArgs.map .char ++ .endTok :: nonzeroArgs.map .rsvd2 ++
        allArgs.map .rsvd3 := by
  rw [← instrsOfOp_start_rsvd0, ← instrsOfOp_char, ← instrsOfOp_endTok_rsvd2, ← instrsOfOp_rsvd3]
  exact (map_decodeToken_range 4).trans (by simp [List.range_succ])

/-- Settles O3: the mask gives `op`, and each row is a block of arguments. -/
theorem tokenMapRows : Obligations.TokenMapRows := by
  constructor
  · intro t
    have hzero {op : BitVec 2} (ht : t = tokenWord op (t.setWidth 8)) (hne : t ≠ tokenWord op 0x00#8) :
        t.setWidth 8 ≠ 0x00#8 := fun e => hne (e ▸ ht)
    refine ⟨fun h => h ▸ rfl, fun h => h ▸ rfl, fun h => ?_, fun hne h => ?_, fun hne h => ?_, fun h => ?_⟩
    · exact (congrArg decodeToken (eq_tokenWord_of_mask (op := 0b01#2) h)).trans (decodeToken_char _)
    · have ht := eq_tokenWord_of_mask (op := 0b00#2) h
      exact (congrArg decodeToken ht).trans (decodeToken_rsvd0 (hzero ht hne))
    · have ht := eq_tokenWord_of_mask (op := 0b10#2) h
      exact (congrArg decodeToken ht).trans (decodeToken_rsvd2 (hzero ht hne))
    · exact (congrArg decodeToken (eq_tokenWord_of_mask (op := 0b11#2) h)).trans (decodeToken_rsvd3 _)
  · rw [map_decodeToken_rows]
    simp [List.countP_map, Function.comp_def, beq_eq_decide, allArgs]

/-! ## Phase codes and words written out (R66) -/

/-- Settles O4: the converse for the five codes is `decodeSelect_ok`. -/
theorem phaseCodeSelectsMicroOp : Obligations.PhaseCodeSelectsMicroOp := by
  refine ⟨rfl, rfl, rfl, fun p hp i h => ?_⟩
  rcases Machine.decodeSelect_ok h with ⟨rfl, -⟩ | ⟨rfl, -⟩ | ⟨rfl, -⟩ <;> simp at hp

/-- A row of format T whose word fits in ten bits is read as the token with that value. -/
theorem decodeTableWord_token {w : Nat} (h : w < 1024) :
    decodeTableWord 16 w = some (decodeToken (BitVec.ofNat 10 w)) := by
  have hbytes : [BitVec.ofNat 8 w, BitVec.ofNat 8 (w / 256)] =
      (CodeWord.token (BitVec.ofNat 10 w)).bytes := by
    have hlow : BitVec.ofNat 8 w = (BitVec.ofNat 10 w).extractLsb' 0 8 := by
      apply BitVec.eq_of_toNat_eq
      simp only [BitVec.toNat_ofNat, BitVec.extractLsb'_toNat, Nat.shiftRight_zero]
      omega
    have hhigh : BitVec.ofNat 8 (w / 256) = ((BitVec.ofNat 10 w).extractLsb' 8 2).setWidth 8 := by
      apply BitVec.eq_of_toNat_eq
      simp only [BitVec.toNat_ofNat, BitVec.toNat_setWidth, BitVec.extractLsb'_toNat,
        Nat.shiftRight_eq_div_pow]
      omega
    rw [hlow, hhigh, CodeWord.bytes]
  rw [decodeTableWord, if_neg (by decide), if_pos (by omega), hbytes, decodeBytes_bytes]
  rfl

/-- A row of format P is read as the phase code with that value. -/
theorem decodeTableWord_select {w : Nat} (h : w < 8) :
    decodeTableWord 8 w = (decodeSelect (BitVec.ofNat 3 w)).toOption := by
  have hbytes : [BitVec.ofNat 8 w] = (CodeWord.select (BitVec.ofNat 3 w)).bytes := by
    have hcode : BitVec.ofNat 8 w = (BitVec.ofNat 3 w).setWidth 8 := by bv_omega
    rw [hcode, CodeWord.bytes]
  rw [decodeTableWord, if_pos (by decide), if_pos (by omega), hbytes, decodeBytes_bytes]
  rfl

/-- Settles O5: the words are the tokens and phase codes of their rows. -/
theorem writtenOutWordsDecode : Obligations.WrittenOutWordsDecode := by
  have htoken (op : BitVec 2) (arg : Byte) :
      decodeTableWord 16 (tokenWord op arg).toNat = some (decodeToken (tokenWord op arg)) := by
    rw [decodeTableWord_token (tokenWord op arg).isLt, BitVec.ofNat_toNat, BitVec.setWidth_eq]
  exact ⟨htoken 0b00#2 0x00#8, htoken 0b01#2 0x62#8, htoken 0b10#2 0x00#8, htoken 0b00#2 0x01#8,
    htoken 0b10#2 0xFF#8, htoken 0b11#2 0xAA#8, decodeTableWord_select (by decide),
    decodeTableWord_select (by decide), decodeTableWord_select (by decide)⟩

end Sys2Proof

/-! PROOFS. Tokens while the core is busy, and the character classes (O9, O22). -/

namespace Sys2Proof.Machine

/-! ## A token while `ready` = 0 -/

theorem exec_token_of_busy {s : State} {i : Instr} (hb : s.ready = false) (hi : i.isToken = true) :
    exec i s = .next s := by
  cases i with
  | start => exact hostStep_of_busy hb
  | char c => exact hostStep_of_busy hb
  | endTok => exact hostStep_of_busy hb
  | rsvd0 arg => exact hostStep_of_busy hb
  | rsvd2 arg => exact hostStep_of_busy hb
  | rsvd3 arg => exact hostStep_of_busy hb
  | uCheck => cases hi
  | uPad => cases hi
  | uHash => cases hi

/-- While `ready` = 0 the enabled step depends on `rst` and `ph` alone. -/
theorem fetch_congr_of_busy {s s' : State} (hb : s.ready = false) (hp : s.ph = s'.ph)
    (hr : s.input.rst = s'.input.rst) : fetch s = fetch s' := by
  have hb' : s'.ready = false := by
    rw [State.not_ready_iff] at hb ⊢
    exact hp ▸ hb
  simp only [fetch, hb, hb', hp, hr, Bool.false_eq_true, if_false]

/-- A step is what is fetched, applied to the state as the host moves on. -/
theorem step_congr {s s' : State} (hf : fetch s = fetch s') (hpop : s.popInput = s'.popInput) :
    step s = step s' := by
  simp only [step, hf, hpop]

/-- Settles O9: a busy core neither runs nor fetches a token. -/
theorem tokenNotTransferredWhileBusy : Obligations.TokenNotTransferredWhileBusy := fun _ hb =>
  ⟨fun _ hi => exec_token_of_busy hb hi, fun _ _ _ _ _ => step_congr (fetch_congr_of_busy hb rfl rfl) rfl⟩

/-! ## `hexval` (R64) -/

/-- A digit's value is its code less the offset of its range. -/
theorem setWidth_sub_eq_ofNat {c k : Byte} (h : k.toNat ≤ c.toNat) :
    (c - k).setWidth 4 = BitVec.ofNat 4 (c.toNat - k.toNat) := by
  rw [← BitVec.toNat_sub_of_le h, BitVec.ofNat_toNat]

theorem hexval_of_digit {c : Byte} (h : 0x30 ≤ c.toNat ∧ c.toNat ≤ 0x39) :
    hexval c = some (BitVec.ofNat 4 (c.toNat - 0x30)) := by
  have hdigit : 0x30#8 ≤ c ∧ c ≤ 0x39#8 := h
  exact (if_pos hdigit).trans (congrArg some (setWidth_sub_eq_ofNat h.1))

theorem hexval_of_upper {c : Byte} (h : 0x41 ≤ c.toNat ∧ c.toNat ≤ 0x46) :
    hexval c = some (BitVec.ofNat 4 (c.toNat - 0x37)) := by
  have hdigit : ¬ (0x30#8 ≤ c ∧ c ≤ 0x39#8) := by bv_omega
  have hupper : 0x41#8 ≤ c ∧ c ≤ 0x46#8 := h
  have hoffset : (0x37#8).toNat ≤ c.toNat := Nat.le_trans (by decide) h.1
  exact ((if_neg hdigit).trans (if_pos hupper)).trans (congrArg some (setWidth_sub_eq_ofNat hoffset))

theorem hexval_of_lower {c : Byte} (h : 0x61 ≤ c.toNat ∧ c.toNat ≤ 0x66) :
    hexval c = some (BitVec.ofNat 4 (c.toNat - 0x57)) := by
  have hdigit : ¬ (0x30#8 ≤ c ∧ c ≤ 0x39#8) := by bv_omega
  have hupper : ¬ (0x41#8 ≤ c ∧ c ≤ 0x46#8) := by bv_omega
  have hlower : 0x61#8 ≤ c ∧ c ≤ 0x66#8 := h
  have hoffset : (0x57#8).toNat ≤ c.toNat := Nat.le_trans (by decide) h.1
  exact ((if_neg hdigit).trans ((if_neg hupper).trans (if_pos hlower))).trans
    (congrArg some (setWidth_sub_eq_ofNat hoffset))

theorem hexval_of_skipped {c : Byte}
    (h : c.toNat ≤ 0x2F ∨ (0x3A ≤ c.toNat ∧ c.toNat ≤ 0x40) ∨ (0x47 ≤ c.toNat ∧ c.toNat ≤ 0x60) ∨
      0x67 ≤ c.toNat) : hexval c = none := by
  have hdigit : ¬ (0x30#8 ≤ c ∧ c ≤ 0x39#8) := by bv_omega
  have hupper : ¬ (0x41#8 ≤ c ∧ c ≤ 0x46#8) := by bv_omega
  have hlower : ¬ (0x61#8 ≤ c ∧ c ≤ 0x66#8) := by bv_omega
  exact (if_neg hdigit).trans ((if_neg hupper).trans (if_neg hlower))

/-- Settles O22, range by range. -/
theorem hexvalClasses : Obligations.HexvalClasses := fun _ =>
  ⟨hexval_of_digit, hexval_of_upper, hexval_of_lower, hexval_of_skipped⟩

end Sys2Proof.Machine

/-! PROOFS. What each host token does in each phase (O13 to O20). -/

namespace Sys2Proof.Machine

/-! ## The effect of a token, phase by phase -/

theorem exec_char_of_collect {s : State} (hp : s.ph = Phase.collect) (c : Byte) :
    exec (.char c) s = .next (s.takeChar c) :=
  (hostStep_of_ready (s.ready_iff.mpr (.inr (.inl hp)))).trans (congrArg _ (State.inCall_collect hp))

theorem exec_endTok_of_collect {s : State} (hp : s.ph = Phase.collect) :
    exec .endTok s = .next (s.goPhase Phase.check) :=
  (hostStep_of_ready (s.ready_iff.mpr (.inr (.inl hp)))).trans (congrArg _ (State.inCall_collect hp))

/-- A token that belongs to an open call is a protocol error in IDLE and DONE (R85, R87). -/
theorem hostStep_inCall_of_idle_or_done {s : State} (f : State → State)
    (hp : s.ph = Phase.idle ∨ s.ph = Phase.done) : hostStep (State.inCall f) s = .next s.setPerr := by
  have hy : s.ready = true := s.ready_iff.mpr (hp.imp_right .inr)
  have hne : s.ph ≠ Phase.collect := by rcases hp with hp | hp <;> simp [hp]
  rw [hostStep_of_ready hy, State.inCall_other hne]

theorem exec_of_reserved {s : State} {i : Instr} (hi : i.isReserved = true) (hy : s.ready = true) :
    exec i s = .next s.setPerr := by
  cases i with
  | rsvd0 arg => exact hostStep_of_ready hy
  | rsvd2 arg => exact hostStep_of_ready hy
  | rsvd3 arg => exact hostStep_of_ready hy
  | start => cases hi
  | char c => cases hi
  | endTok => cases hi
  | uCheck => cases hi
  | uPad => cases hi
  | uHash => cases hi

/-! ## The three cases of CHAR in COLLECT -/

theorem State.takeChar_of_skipped {c : Byte} (s : State) (hc : hexval c = none) : s.takeChar c = s := by
  simp only [State.takeChar, hc]

theorem State.takeChar_of_room {s : State} {c : Byte} {v : Nibble} (hc : hexval c = some v)
    (hn : s.n.toNat ≤ 35) : s.takeChar c = s.storeDigit v := by
  have hle : s.n ≤ nLast := hn
  simp only [State.takeChar, hc, if_pos hle]

theorem State.takeChar_of_full {s : State} {c : Byte} {v : Nibble} (hc : hexval c = some v)
    (hn : 36 ≤ s.n.toNat) : s.takeChar c = s.saturate := by
  have hle : ¬ s.n ≤ nLast := fun h => absurd (Nat.le_trans hn h) (by decide)
  simp only [State.takeChar, hc, if_neg hle]

theorem State.storeDigit_n_toNat {s : State} (v : Nibble) (hn : s.n.toNat ≤ 35) :
    (s.storeDigit v).n.toNat = s.n.toNat + 1 := by
  rw [State.storeDigit_n, BitVec.toNat_add_of_lt (by simp; omega)]
  rfl

@[simp] theorem State.takeChar_inputs (c : Byte) (s : State) : (s.takeChar c).inputs = s.inputs := by
  obtain ⟨n, nib, e, -⟩ := s.takeChar_writes_digits c
  rw [e]

@[simp] theorem State.takeChar_perr (c : Byte) (s : State) : (s.takeChar c).perr = s.perr := by
  obtain ⟨n, nib, e, -⟩ := s.takeChar_writes_digits c
  rw [e]

/-! ## The count once it is saturated -/

theorem State.takeChar_n_of_saturated {s : State} (hn : s.n = 37#6) (c : Byte) :
    (s.takeChar c).n = 37#6 := by
  rcases s.takeChar_cases c with ⟨-, e⟩ | ⟨v, -, hle, -⟩ | ⟨v, -, -, e⟩
  · rw [e, hn]
  · simp [hn] at hle
  · rw [e, State.saturate_n]

@[simp] theorem State.checkCall_n (s : State) : s.checkCall.n = s.n := by
  rcases s.checkCall_cases with ⟨-, e⟩ | ⟨-, -, e⟩ | ⟨-, -, e⟩ <;> simp [e]

@[simp] theorem State.hashBlock_n (s : State) : s.hashBlock.n = s.n := by
  rcases s.hashBlock_cases with ⟨-, e⟩ | ⟨-, e⟩ <;> simp [e]

/-- Of the tokens only START brings the count down from 37. -/
theorem exec_token_n_of_saturated {s t : State} {i : Instr} (hi : i.isToken = true) (hstart : i ≠ .start)
    (hn : s.n = 37#6) (h : exec i s = .next t) : t.n = 37#6 := by
  rcases exec_token_effect hi hstart h with rfl | rfl | ⟨-, rfl⟩ | ⟨c, -, rfl⟩
  · exact hn
  · exact hn
  · exact hn
  · exact State.takeChar_n_of_saturated hn c

theorem State.checkCall_of_illegal {s : State} (h : legalCount s.n = false) :
    s.checkCall = { s with st := Status.invalidLength, ph := Phase.done } :=
  if_pos h

theorem exec_uCheck_of_illegal {s : State} (hp : s.ph = Phase.check) (h : legalCount s.n = false) :
    exec .uCheck s = .next { s with st := Status.invalidLength, ph := Phase.done } :=
  (execUCheck_of_phase hp).trans (congrArg _ (State.checkCall_of_illegal h))

/-! ## The statements -/

/-- Settles O13: START is `beginCall`, and with `st` NONE the key port reads zero. -/
theorem startWritesEveryRegister : Obligations.StartWritesEveryRegister := fun s hy =>
  ⟨s.beginCall, hostStep_of_ready hy, rfl, rfl,
    State.key_getElem_of_not_ok (by simp), rfl, rfl, rfl, rfl⟩

/-- Settles O14: CHAR is `storeDigit`, and `nibAt_set` reads the buffer after it. -/
theorem charStoresADigit : Obligations.CharStoresADigit := by
  intro s c v hp hc hn
  have hnib (j : Nat) : nibAt (s.storeDigit v).nib j = if j = s.n.toNat then v else nibAt s.nib j :=
    nibAt_set _ _ _ _ (by omega)
  refine ⟨s.storeDigit v, ?_, rfl, State.storeDigit_n_toNat v hn, ?_, fun j hj => ?_⟩
  · rw [exec_char_of_collect hp, State.takeChar_of_room hc hn]
  · rw [hnib, if_pos rfl]
  · rw [hnib, if_neg hj]

/-- Settles O15: 37 is kept by the effect of every step but reset and START, and is no legal count. -/
theorem charSaturatesTheCount : Obligations.CharSaturatesTheCount := by
  refine ⟨fun s c v hp hc hn => ?_, fun s t hn hstep hr hstart => ?_, fun s hp hn => ?_⟩
  · rw [exec_char_of_collect hp, State.takeChar_of_full hc hn]
    rfl
  · rcases step_cases hstep with ⟨hr', -⟩ | ⟨-, hy, hv, he⟩ | ⟨-, -, -, rfl⟩ | ⟨-, -, rfl⟩ |
      ⟨-, -, -, rfl⟩ | ⟨-, -, -, -, rfl⟩
    · rw [hr] at hr'
      cases hr'
    · have hne : decodeToken s.input.tok ≠ .start := fun e => hstart (e ▸ fetch_of_token hr hy hv)
      exact exec_token_n_of_saturated (s := s.popInput) (decodeToken_isToken _) hne hn he
    · exact hn
    · exact s.popInput.checkCall_n.trans hn
    · exact hn
    · exact s.popInput.hashBlock_n.trans hn
  · exact exec_uCheck_of_illegal hp (by rw [hn]; rfl)

/-- Settles O16: CHAR leaves the state as it is. -/
theorem skippedCharChangesNothing : Obligations.SkippedCharChangesNothing := fun s c hp hc =>
  (exec_char_of_collect hp c).trans (congrArg _ (s.takeChar_of_skipped hc))

/-- Settles O17, by `hostStep_inCall_of_idle_or_done`. -/
theorem charOutsideACallSetsPerr : Obligations.CharOutsideACallSetsPerr := fun _ _ =>
  hostStep_inCall_of_idle_or_done _

/-- Settles O18: END is `goPhase`, and 0 is no legal count. -/
theorem endMovesToCheck : Obligations.EndMovesToCheck := fun s hp =>
  ⟨s.goPhase Phase.check, exec_endTok_of_collect hp, rfl, rfl, rfl,
    fun hn => exec_uCheck_of_illegal rfl (congrArg legalCount hn)⟩

/-- Settles O19, by `hostStep_inCall_of_idle_or_done`. -/
theorem endOutsideACallSetsPerr : Obligations.EndOutsideACallSetsPerr := fun _ =>
  hostStep_inCall_of_idle_or_done _

/-- Settles O20, by `exec_of_reserved` for each of the three rows. -/
theorem reservedTokenSetsPerr : Obligations.ReservedTokenSetsPerr := fun s _ hp =>
  have hy : s.ready = true := s.ready_iff.mpr hp
  ⟨exec_of_reserved rfl hy, exec_of_reserved rfl hy, exec_of_reserved rfl hy⟩

end Sys2Proof.Machine

/-! PROOFS. The front end: what the digit buffer holds while a call collects (O24, O25, O26, O27). -/

namespace Sys2Proof.Machine

/-! ## What the inputs inside a call carry -/

theorem HostCycle.insideCall_cases {c : HostCycle} (h : c.insideCall = true) :
    c.rst = false ∧ (c.tokValid = false ∨
      (c.tokValid = true ∧ ∃ x, decodeToken c.tok = .char x) ∨
      (c.tokValid = true ∧ (decodeToken c.tok).isReserved = true)) := by
  simp only [HostCycle.insideCall, Bool.and_eq_true, Bool.or_eq_true, Bool.not_eq_true'] at h
  obtain ⟨hr, hv | hi⟩ := h
  · exact ⟨hr, .inl hv⟩
  · refine ⟨hr, ?_⟩
    cases hv : c.tokValid with
    | false => exact .inl rfl
    | true =>
      split at hi
      · exact .inr (.inl ⟨rfl, _, ‹_›⟩)
      · exact .inr (.inr ⟨rfl, hi⟩)

theorem charsOf_cons (c : HostCycle) (cs : List HostCycle) : charsOf (c :: cs) = charsOf [c] ++ charsOf cs :=
  List.filterMap_append (l := [c])

theorem anyReserved_cons (c : HostCycle) (cs : List HostCycle) :
    anyReserved (c :: cs) = (anyReserved [c] || anyReserved cs) :=
  List.any_append (xs := [c])

theorem charsOf_of_no_token {c : HostCycle} (hv : c.tokValid = false) : charsOf [c] = [] := by
  simp [charsOf, hv]

theorem charsOf_of_char {c : HostCycle} {x : Byte} (hv : c.tokValid = true)
    (hx : decodeToken c.tok = .char x) : charsOf [c] = [x] := by
  simp [charsOf, hv, hx]

theorem charsOf_of_reserved {c : HostCycle} (hi : (decodeToken c.tok).isReserved = true) :
    charsOf [c] = [] := by
  cases hd : decodeToken c.tok with
  | char x => rw [hd] at hi; cases hi
  | _ => simp [charsOf, hd]

theorem digitsOf_cons (c : Byte) (cs : List Byte) :
    digitsOf (c :: cs) = (hexval c).toList ++ digitsOf cs := by
  cases hc : hexval c <;> simp [digitsOf, hc]

@[simp] theorem digitsOf_append (a b : List Byte) : digitsOf (a ++ b) = digitsOf a ++ digitsOf b :=
  List.filterMap_append

theorem offerAll_strTokens_cons (x : Byte) (xs : List Byte) : offerAll (strTokens (x :: xs)) =
    HostCycle.offer (tokenWord 0b01#2 x) :: offerAll (strTokens xs) := rfl

theorem charsOf_offerAll_strTokens (str : List Byte) : charsOf (offerAll (strTokens str)) = str := by
  induction str with
  | nil => rfl
  | cons x xs ih =>
    have hx : charsOf [HostCycle.offer (tokenWord 0b01#2 x)] = [x] := charsOf_of_char rfl (decodeToken_char x)
    rw [offerAll_strTokens_cons, charsOf_cons, hx, ih, List.singleton_append]

/-! ## The digit buffer while a call collects -/

/-- In COLLECT with the digits `q` passed: they are counted up to saturation, and the buffer holds those that
fit, then zeros (R82, R83, R89). -/
structure State.Collected (s : State) (q : List Nibble) : Prop where
  phase : s.ph = Phase.collect
  count : s.n.toNat = min q.length 37
  digits : ∀ i : Nat, i < 36 → nibAt s.nib i = q.getD i 0#4

theorem State.collected_beginCall (s : State) : s.beginCall.Collected [] :=
  ⟨rfl, rfl, fun i _ => nibAt_zero i⟩

theorem State.Collected.popInput {s : State} {q : List Nibble} (h : s.Collected q) :
    s.popInput.Collected q :=
  ⟨h.phase, h.count, h.digits⟩

theorem State.Collected.setPerr {s : State} {q : List Nibble} (h : s.Collected q) : s.setPerr.Collected q :=
  ⟨h.phase, h.count, h.digits⟩

theorem State.Collected.storeDigit {s : State} {q : List Nibble} (h : s.Collected q) (v : Nibble)
    (hn : s.n.toNat ≤ 35) : (s.storeDigit v).Collected (q ++ [v]) := by
  have hcount := h.count
  have hlen : s.n.toNat = q.length := by omega
  refine ⟨h.phase, ?_, fun i hi => ?_⟩
  · rw [State.storeDigit_n_toNat v hn, List.length_append, List.length_singleton]
    omega
  · rw [State.storeDigit_nib, nibAt_set _ _ _ _ (by omega), hlen, h.digits i hi]
    rcases Nat.lt_trichotomy i q.length with hlt | rfl | hgt
    · rw [if_neg (by omega), List.getD_append _ _ _ _ hlt]
    · simp
    · rw [if_neg (by omega), List.getD_eq_default _ _ (by omega), List.getD_eq_default _ _ (by simp; omega)]

theorem State.Collected.saturate {s : State} {q : List Nibble} (h : s.Collected q) (v : Nibble)
    (hn : 36 ≤ s.n.toNat) : s.saturate.Collected (q ++ [v]) := by
  have hcount := h.count
  refine ⟨h.phase, ?_, fun i hi => ?_⟩
  · rw [State.saturate_n, List.length_append, List.length_singleton, Nat.min_eq_right (by omega)]
    rfl
  · rw [State.saturate_nib, h.digits i hi, List.getD_append _ _ _ _ (by omega)]

theorem State.Collected.takeChar {s : State} {q : List Nibble} (h : s.Collected q) (c : Byte) :
    (s.takeChar c).Collected (q ++ digitsOf [c]) := by
  rcases s.takeChar_cases c with ⟨hc, e⟩ | ⟨v, hc, hn, e⟩ | ⟨v, hc, hn, e⟩ <;> rw [e]
  · simpa [digitsOf, hc] using h
  · simpa [digitsOf, hc] using h.storeDigit v hn
  · simpa [digitsOf, hc] using h.saturate v hn

/-- The digits passed determine the count and the buffer. -/
theorem State.Collected.unique {s t : State} {q : List Nibble} (hs : s.Collected q) (ht : t.Collected q) :
    s.n = t.n ∧ s.nib = t.nib := by
  refine ⟨BitVec.eq_of_toNat_eq (hs.count.trans ht.count.symm), Vector.ext fun i hi => ?_⟩
  rw [← nibAt_of_lt _ hi, ← nibAt_of_lt _ hi, hs.digits i hi, ht.digits i hi]

theorem State.Collected.getElem?_digits {s : State} {q : List Nibble} (h : s.Collected q) {i : Nat}
    (hi : i < min q.length 36) : q[i]? = some (nibAt s.nib i) := by
  obtain ⟨hlen, h36⟩ := Nat.lt_min.mp hi
  rw [h.digits i h36, List.getD_eq_getElem _ _ hlen, List.getElem?_eq_getElem hlen]

/-! ## Steps and runs inside a call -/

theorem step_of_token_input {s : State} {c : HostCycle} {rest : List HostCycle} (hy : s.ready = true)
    (hin : s.inputs = c :: rest) (hr : c.rst = false) (hv : c.tokValid = true) :
    step s = exec (decodeToken c.tok) s.popInput := by
  have hi := s.input_of_cons _ _ hin
  rw [step_of_run (fetch_of_token (hi ▸ hr) hy (hi ▸ hv)), hi]

theorem step_of_idle_input {s : State} {c : HostCycle} {rest : List HostCycle} (hy : s.ready = true)
    (hin : s.inputs = c :: rest) (hr : c.rst = false) (hv : c.tokValid = false) :
    step s = .next s.popInput := by
  have hi := s.input_of_cons _ _ hin
  exact step_of_wait (fetch_of_no_token (hi ▸ hr) hy (hi ▸ hv))

/-- One input inside a call: the state collects what it carries, and a reserved token sets `perr`. -/
theorem State.Collected.step {s : State} {q : List Nibble} {c : HostCycle} {rest : List HostCycle}
    (h : s.Collected q) (hin : s.inputs = c :: rest) (hc : c.insideCall = true) :
    ∃ t : State, Machine.step s = .next t ∧ t.inputs = rest ∧
      t.Collected (q ++ digitsOf (charsOf [c])) ∧ t.perr = (s.perr || anyReserved [c]) := by
  have hy : s.ready = true := s.ready_iff.mpr (.inr (.inl h.phase))
  have hrest : s.popInput.inputs = rest := by simp [hin]
  obtain ⟨hr, hv | ⟨hv, x, hx⟩ | ⟨hv, hres⟩⟩ := c.insideCall_cases hc
  · refine ⟨s.popInput, step_of_idle_input hy hin hr hv, hrest, ?_, ?_⟩
    · simpa [charsOf_of_no_token hv, digitsOf] using h.popInput
    · simp [anyReserved, hv]
  · have hstep := step_of_token_input hy hin hr hv
    rw [hx] at hstep
    refine ⟨s.popInput.takeChar x, hstep.trans (exec_char_of_collect h.popInput.phase x), ?_, ?_, ?_⟩
    · exact (State.takeChar_inputs x _).trans hrest
    · rw [charsOf_of_char hv hx]
      exact h.popInput.takeChar x
    · simp [anyReserved, hx, Instr.isReserved]
  · refine ⟨s.popInput.setPerr, (step_of_token_input hy hin hr hv).trans (exec_of_reserved hres hy),
      hrest, ?_, ?_⟩
    · simpa [charsOf_of_reserved hres, digitsOf] using h.popInput.setPerr
    · simp [anyReserved, hv, hres]

theorem State.Collected.run {s : State} {q : List Nibble} {mid rest : List HostCycle} (h : s.Collected q)
    (hmid : ∀ c ∈ mid, c.insideCall = true) (hin : s.inputs = mid ++ rest) :
    ∃ t : State, Host.Core.run core mid.length s = .next t ∧ t.inputs = rest ∧
      t.Collected (q ++ digitsOf (charsOf mid)) ∧ t.perr = (s.perr || anyReserved mid) := by
  induction mid generalizing s q with
  | nil => exact ⟨s, rfl, hin, by simpa [charsOf, digitsOf] using h, by simp [anyReserved]⟩
  | cons c mid ih =>
    obtain ⟨u, hstep, huin, hu, huperr⟩ := h.step hin (hmid c (by simp))
    obtain ⟨t, hrun, htin, ht, htperr⟩ := ih hu (fun d hd => hmid d (by simp [hd])) huin
    refine ⟨t, (run_of_next hstep _).trans hrun, htin, ?_, ?_⟩
    · rwa [charsOf_cons, digitsOf_append, ← List.append_assoc]
    · rw [htperr, huperr, anyReserved_cons c mid, Bool.or_assoc]

/-- START, then inputs inside a call: the state collects what they carry (R89). -/
theorem run_start_collects {s : State} {mid rest : List HostCycle} (hy : s.ready = true)
    (hmid : ∀ c ∈ mid, c.insideCall = true)
    (hin : s.inputs = HostCycle.offer (tokenWord 0b00#2 0x00#8) :: mid ++ rest) :
    ∃ t : State, Host.Core.run core (mid.length + 1) s = .next t ∧ t.inputs = rest ∧
      t.Collected (digitsOf (charsOf mid)) ∧ t.perr = anyReserved mid := by
  have hin' : s.popInput.beginCall.inputs = mid ++ rest := by simp [hin]
  obtain ⟨t, hrun, htin, ht, hperr⟩ := s.popInput.collected_beginCall.run hmid hin'
  exact ⟨t, (run_of_next (step_of_start hy hin) _).trans hrun, htin, ht, hperr⟩

/-- Settles O24, by `run_start_collects`. -/
theorem frontEndCollectsTheDigits : Obligations.FrontEndCollectsTheDigits := by
  intro s mid rest hy hmid hin
  obtain ⟨t, hrun, htin, ht, hperr⟩ := run_start_collects hy hmid hin
  exact ⟨t, hrun, ht.phase, htin, ht.count, fun i hi => ht.getElem?_digits hi, hperr⟩

/-! ## Strings with the same digits -/

theorem step_of_end {s : State} {rest : List HostCycle} (hp : s.ph = Phase.collect)
    (hin : s.inputs = HostCycle.offer (tokenWord 0b10#2 0x00#8) :: rest) :
    step s = .next (s.popInput.goPhase Phase.check) :=
  (step_of_token_input (s.ready_iff.mpr (.inr (.inl hp))) hin rfl rfl).trans
    (exec_endTok_of_collect (s := s.popInput) hp)

theorem insideCall_of_mem_offerAll_strTokens {str : List Byte} {c : HostCycle}
    (h : c ∈ offerAll (strTokens str)) : c.insideCall = true := by
  simp only [offerAll, strTokens, List.mem_map] at h
  obtain ⟨_, ⟨x, -, rfl⟩, rfl⟩ := h
  simp [HostCycle.insideCall, HostCycle.offer, decodeToken_char]

/-- `CODE "str"` taken to its END: CHECK, with what a state holds that has collected the digits of `str`. -/
theorem run_code_collects {s : State} {str : List Byte} (hy : s.ready = true)
    (hin : s.inputs = offerAll (codeTokens str)) :
    ∃ u : State, u.Collected (digitsOf str) ∧
      Host.Core.run core (str.length + 2) s = .next (u.popInput.goPhase Phase.check) := by
  have hin' : s.inputs = HostCycle.offer (tokenWord 0b00#2 0x00#8) :: offerAll (strTokens str) ++
      [HostCycle.offer (tokenWord 0b10#2 0x00#8)] := by
    rw [hin]
    simp [offerAll, codeTokens]
  obtain ⟨u, hrun, huin, hu, -⟩ :=
    run_start_collects hy (fun _ => insideCall_of_mem_offerAll_strTokens) hin'
  have hlen : (offerAll (strTokens str)).length = str.length := by simp [offerAll, strTokens]
  rw [hlen] at hrun
  rw [charsOf_offerAll_strTokens] at hu
  exact ⟨u, hu, (run_add hrun 1).trans (run_of_next (step_of_end hu.phase huin) 0)⟩

theorem installDecode_congr {str str' : List Byte} (h : digitsOf str = digitsOf str') :
    installDecode str = installDecode str' := by
  simp only [installDecode, h]

/-- What a call leaves in `n` and `nib`, and what it answers, depends on the digits of its string alone. -/
theorem calls_agree_of_digits {s s' : State} {str str' : List Byte} (hy : s.ready = true)
    (hy' : s'.ready = true) (hin : s.inputs = offerAll (codeTokens str))
    (hin' : s'.inputs = offerAll (codeTokens str')) (h : digitsOf str = digitsOf str') :
    installDecode str = installDecode str' ∧
    ∃ t t' : State, Host.Core.run core (str.length + 2) s = .next t ∧
      Host.Core.run core (str'.length + 2) s' = .next t' ∧ t.n = t'.n ∧ t.nib = t'.nib := by
  obtain ⟨u, hu, hrun⟩ := run_code_collects hy hin
  obtain ⟨u', hu', hrun'⟩ := run_code_collects hy' hin'
  exact ⟨installDecode_congr h, _, _, hrun, hrun', hu.unique (t := u') (h ▸ hu')⟩

/-- A lower case letter has the digit value of its capital (R64, R90). -/
theorem hexval_lower_eq_upper {c c' : Byte}
    (h : 0x61 ≤ c.toNat ∧ c.toNat ≤ 0x66 ∧ c'.toNat = c.toNat - 0x20) : hexval c = hexval c' := by
  obtain ⟨hlo, hhi, he⟩ := h
  rw [hexval_of_lower ⟨hlo, hhi⟩, hexval_of_upper (by omega), he, Nat.sub_sub]

/-- The digits of two strings whose characters have the same digit values, place by place. -/
theorem digitsOf_eq_of_forall₂ {str str' : List Byte}
    (h : List.Forall₂ (fun c c' => hexval c = hexval c') str str') : digitsOf str = digitsOf str' := by
  induction h with
  | nil => rfl
  | cons hc _ ih => rw [digitsOf_cons, digitsOf_cons, hc, ih]

theorem digitsOf_filter_isSome (str : List Byte) :
    digitsOf (str.filter fun c => (hexval c).isSome) = digitsOf str := by
  rw [digitsOf, List.filterMap_filter]
  refine List.filterMap_congr fun c _ => ?_
  cases hexval c <;> rfl

/-- Settles O25: the replaced letters keep their digit values. -/
theorem caseDoesNotMatter : Obligations.CaseDoesNotMatter := by
  intro s s' str str' hy hy' hcase hin hin'
  refine calls_agree_of_digits hy hy' hin hin' (digitsOf_eq_of_forall₂ (hcase.imp fun c c' h => ?_))
  rcases h with rfl | h | h
  · rfl
  · exact hexval_lower_eq_upper h
  · exact (hexval_lower_eq_upper h).symm

/-- Settles O26: the digits of a string are those of its digit characters. -/
theorem separatorsDoNotMatter : Obligations.SeparatorsDoNotMatter := by
  intro s s' str str' hy hy' hfilter hin hin'
  refine calls_agree_of_digits hy hy' hin hin' ?_
  rw [← digitsOf_filter_isSome str, hfilter, digitsOf_filter_isSome]

/-- Settles O27: the legal counts lie below 37. -/
theorem saturationLosesNothing : Obligations.SaturationLosesNothing := by
  intro q n hn
  rw [legalCount_iff]
  omega

end Sys2Proof.Machine

/-! PROOFS. The CRC-16 as a function: its table, its byte step, its residue, and what it tells apart (O32, O33,
O34). -/

namespace Sys2Proof.Machine

/-! ## The bit step (R101): linear over XOR, and one-to-one -/

theorem shift1_eq_xor (v : Word16) :
    shift1 v = (v >>> 1) ^^^ (if v.getLsbD 0 then crcPoly else 0x0000#16) := by
  unfold shift1
  split
  · rfl
  · exact BitVec.xor_zero.symm

theorem shift1_xor (v w : Word16) : shift1 (v ^^^ w) = shift1 v ^^^ shift1 w := by
  have hpoly : (if (v ^^^ w).getLsbD 0 then crcPoly else 0x0000#16) =
      (if v.getLsbD 0 then crcPoly else 0x0000#16) ^^^ (if w.getLsbD 0 then crcPoly else 0x0000#16) := by
    rw [BitVec.getLsbD_xor]
    cases v.getLsbD 0 <;> cases w.getLsbD 0 <;> rfl
  rw [shift1_eq_xor, shift1_eq_xor v, shift1_eq_xor w, BitVec.ushiftRight_xor_distrib, hpoly]
  ac_rfl

/-- The polynomial's top bit is set, so the bit that left comes back as the top bit. -/
theorem shift1_getLsbD_top (v : Word16) : (shift1 v).getLsbD 15 = v.getLsbD 0 := by
  rw [shift1_eq_xor, BitVec.getLsbD_xor, BitVec.getLsbD_ushiftRight, BitVec.getLsbD_of_ge v 16 (by decide)]
  cases v.getLsbD 0 <;> rfl

theorem shift1_injective : Function.Injective shift1 := by
  intro v w h
  have hlow : v.getLsbD 0 = w.getLsbD 0 := by rw [← shift1_getLsbD_top, h, shift1_getLsbD_top]
  have hrest : v >>> 1 = w >>> 1 := by
    rwa [shift1_eq_xor, shift1_eq_xor, hlow, BitVec.xor_left_inj] at h
  refine BitVec.eq_of_getLsbD_eq fun i _ => ?_
  cases i with
  | zero => exact hlow
  | succ i => simpa [Nat.add_comm] using congrArg (·.getLsbD i) hrest

theorem shiftTimes_xor (k : Nat) (v w : Word16) :
    shiftTimes k (v ^^^ w) = shiftTimes k v ^^^ shiftTimes k w := by
  induction k generalizing v w with
  | zero => rfl
  | succ k ih => simp only [shiftTimes, shift1_xor, ih]

theorem shiftTimes_injective (k : Nat) : Function.Injective (shiftTimes k) := by
  induction k with
  | zero => exact fun _ _ h => h
  | succ k ih => exact ih.comp shift1_injective

/-- While only zeros leave, no step XORs the polynomial in. -/
theorem shiftTimes_of_low_zeros {k : Nat} {v : Word16} (h : ∀ j < k, v.getLsbD j = false) :
    shiftTimes k v = v >>> k := by
  induction k generalizing v with
  | zero => exact (BitVec.ushiftRight_zero v).symm
  | succ k ih =>
    have hshift : shift1 v = v >>> 1 := by simp only [shift1, h 0 (by omega), Bool.false_eq_true, if_false]
    have hnext : ∀ j < k, (v >>> 1).getLsbD j = false := fun j hj => by
      rw [BitVec.getLsbD_ushiftRight]
      exact h (1 + j) (by omega)
    rw [shiftTimes, hshift, ih hnext, ← BitVec.shiftRight_add, Nat.add_comm]

/-! ## The table (R102) -/

/-- The 256 printed entries against the bit step. -/
theorem romT_eq_shiftTimes : ∀ i : Byte, romT i = shiftTimes 8 (i.setWidth 16) := by decide

theorem romT_xor (a b : Byte) : romT (a ^^^ b) = romT a ^^^ romT b := by
  simp only [romT_eq_shiftTimes, BitVec.setWidth_xor, shiftTimes_xor]

/-- Settles O32: linearity is that of the bit step. -/
theorem crcTableIsEightBitSteps : Obligations.CrcTableIsEightBitSteps :=
  ⟨romT_eq_shiftTimes, romT_xor, rfl, rfl, rfl, rfl⟩

/-! ## The byte step (R103, R104) -/

/-- The register is its low byte, XORed with its high byte in place. -/
theorem setWidth_low_xor_high (v : Word16) :
    (v.setWidth 8).setWidth 16 ^^^ ((v >>> 8) <<< 8) = v := by
  refine BitVec.eq_of_getLsbD_eq fun i hi => ?_
  by_cases h : i < 8
  · simp [h, hi]
  · simp [h, hi, show 8 + (i - 8) = i by omega]

/-- Eight bit steps move the high byte down unchanged. -/
theorem shiftTimes_eight_high (v : Word16) : shiftTimes 8 ((v >>> 8) <<< 8) = v >>> 8 := by
  rw [shiftTimes_of_low_zeros fun j hj => by simp [hj]]
  refine BitVec.eq_of_getLsbD_eq fun i _ => ?_
  by_cases h : 8 + i < 16
  · simp [h]
  · simp [h, BitVec.getLsbD_of_ge v (8 + i) (by omega)]

theorem crcStep_eq_crcStepBits (crc : Word16) (b : Byte) : crcStep crc b = crcStepBits crc b := by
  have hlow : (b ^^^ crc.setWidth 8).setWidth 16 ^^^ ((crc >>> 8) <<< 8) = crc ^^^ b.setWidth 16 := by
    rw [BitVec.setWidth_xor, BitVec.xor_assoc, setWidth_low_xor_high, BitVec.xor_comm]
  rw [crcStep, crcStepBits, ← hlow, shiftTimes_xor, shiftTimes_eight_high, romT_eq_shiftTimes]

/-- Settles O33, by the linearity of the bit step on the register's two bytes. -/
theorem crcStepNeedsNoTable : Obligations.CrcStepNeedsNoTable := crcStep_eq_crcStepBits

/-! ## The residue (R115) -/

theorem crcStep_of_index {crc : Word16} {b i : Byte} (h : b ^^^ crc.setWidth 8 = i) :
    crcStep crc b = romT i ^^^ (crc >>> 8) := by
  rw [crcStep, h]

theorem xor_xor_xor_cancel (x c d : Byte) : x ^^^ c ^^^ (d ^^^ x) = c ^^^ d := by
  have hgroup : x ^^^ c ^^^ (d ^^^ x) = x ^^^ x ^^^ (c ^^^ d) := by ac_rfl
  rw [hgroup, BitVec.xor_self, BitVec.zero_xor]

/-- Whatever the register holds, its own complement, low byte first, brings it to the residue. -/
theorem crcStep_crcStep_complement (r : Word16) :
    crcStep (crcStep r ((r ^^^ 0xFFFF#16).extractLsb' 0 8)) ((r ^^^ 0xFFFF#16).extractLsb' 8 8) =
      0xF0B8#16 := by
  have hfirst : (r ^^^ 0xFFFF#16).extractLsb' 0 8 ^^^ r.setWidth 8 = 0xFF#8 := by
    rw [BitVec.setWidth_eq_extractLsb' (by decide), ← BitVec.extractLsb'_xor, BitVec.xor_comm,
      ← BitVec.xor_assoc, BitVec.xor_self]
    rfl
  have hsecond : (r ^^^ 0xFFFF#16).extractLsb' 8 8 ^^^ (romT 0xFF#8 ^^^ (r >>> 8)).setWidth 8 = 0x87#8 := by
    have hhigh : (r >>> 8).setWidth 8 = r.extractLsb' 8 8 := rfl
    rw [BitVec.setWidth_xor, hhigh, BitVec.extractLsb'_xor, xor_xor_xor_cancel]
    rfl
  have hgone : r >>> 8 >>> 8 = 0#16 := by
    rw [← BitVec.shiftRight_add]
    exact BitVec.ushiftRight_eq_zero (by decide)
  rw [crcStep_of_index hfirst, crcStep_of_index hsecond, BitVec.ushiftRight_xor_distrib, hgone]
  rfl

/-- Settles O34: after `d` the register holds some value, and the checksum bytes are its complement. -/
theorem crcResidueOfACodeWord : Obligations.CrcResidueOfACodeWord := by
  intro d
  rw [crcRun, List.foldl_append]
  exact crcStep_crcStep_complement (crcRun d)

/-! ## What the running value tells apart (R116) -/

theorem crcStep_injective_register (b : Byte) : Function.Injective fun crc => crcStep crc b := by
  intro r r' h
  simp only [crcStep_eq_crcStepBits] at h
  exact (BitVec.xor_left_inj _).mp (shiftTimes_injective 8 h)

theorem crcStep_injective_byte (crc : Word16) : Function.Injective (crcStep crc) := by
  intro b b' h
  rw [crcStep_eq_crcStepBits, crcStep_eq_crcStepBits] at h
  have hw : b.setWidth 16 = b'.setWidth 16 := (BitVec.xor_right_inj _).mp (shiftTimes_injective 8 h)
  simpa using congrArg (BitVec.setWidth 8) hw

theorem crcRun_secretOf_succ (nib : Vector Nibble 36) (L : Nat) :
    crcRun (secretOf nib (L + 1)) = crcStep (crcRun (secretOf nib L)) (byteAt nib L) := by
  simp [secretOf, crcRun, List.range_succ]

/-- The byte that differs changes the register, and no equal byte after it brings the two values together. -/
theorem crcRun_ne_of_one_byte {nib nib' : Vector Nibble 36} {k L : Nat} (hk : k < L)
    (hne : byteAt nib' k ≠ byteAt nib k) (heq : ∀ j, j ≠ k → byteAt nib' j = byteAt nib j) :
    crcRun (secretOf nib' L) ≠ crcRun (secretOf nib L) := by
  induction L, hk using Nat.le_induction with
  | base =>
    have hprefix : secretOf nib' k = secretOf nib k :=
      List.map_congr_left fun j hj => heq j (List.mem_range.mp hj).ne
    rw [crcRun_secretOf_succ, crcRun_secretOf_succ, hprefix]
    exact (crcStep_injective_byte _).ne hne
  | succ L hkL ih =>
    rw [crcRun_secretOf_succ, crcRun_secretOf_succ, heq L (Nat.ne_of_gt hkL)]
    exact (crcStep_injective_register _).ne ih

end Sys2Proof.Machine

/-! PROOFS. The checksum validator: U.CHECK in all its cases, what the comparison decides, and the statuses that
a step writes (O28, O29, O35, O36). -/

namespace Sys2Proof.Machine

/-! ## U.CHECK for a legal count -/

/-- The legal counts are even (R109). -/
theorem getLsbD_zero_of_legalCount : ∀ n : BitVec 6, legalCount n = true → n.getLsbD 0 = false := by decide

theorem secretLen_eq {n : BitVec 6} (h : legalCount n = true) :
    secretLen n = BitVec.ofNat 5 (n.toNat / 2 - 2) := by
  rw [← secretLen_toNat h, BitVec.ofNat_toNat, BitVec.setWidth_eq]

theorem State.checkCall_of_correct {s : State} (hl : legalCount s.n = true)
    (hc : checksumCorrect s.nib (s.n.toNat / 2 - 2) = true) :
    s.checkCall = { s with L := BitVec.ofNat 5 (s.n.toNat / 2 - 2)
                           crc := crcRun (secretOf s.nib (s.n.toNat / 2 - 2))
                           ph := Phase.pad } := by
  rw [← secretLen_eq hl]
  rw [← secretLen_toNat hl] at hc ⊢
  rcases s.checkCall_cases with ⟨h, -⟩ | ⟨-, h, -⟩ | ⟨-, -, e⟩
  · exact absurd hl (by simp [h])
  · exact absurd hc (by simp [h])
  · exact e

theorem State.checkCall_of_incorrect {s : State} (hl : legalCount s.n = true)
    (hc : checksumCorrect s.nib (s.n.toNat / 2 - 2) = false) :
    s.checkCall = { s with L := BitVec.ofNat 5 (s.n.toNat / 2 - 2)
                           crc := crcRun (secretOf s.nib (s.n.toNat / 2 - 2))
                           st := Status.checksumMismatch
                           cg := byteAt s.nib (s.n.toNat / 2 - 2) ++ byteAt s.nib (s.n.toNat / 2 - 2 + 1)
                           cc := (crcBytes (secretOf s.nib (s.n.toNat / 2 - 2))).1 ++
                             (crcBytes (secretOf s.nib (s.n.toNat / 2 - 2))).2
                           ph := Phase.done } := by
  rw [← secretLen_eq hl]
  rw [← secretLen_toNat hl] at hc ⊢
  rcases s.checkCall_cases with ⟨h, -⟩ | ⟨-, -, e⟩ | ⟨-, h, -⟩
  · exact absurd hl (by simp [h])
  · exact e
  · exact absurd h (by simp [hc])

theorem checksumCorrect_iff_bytes (nib : Vector Nibble 36) (L : Nat) :
    checksumCorrect nib L = true ↔
      (crcBytes (secretOf nib L)).1 = byteAt nib L ∧ (crcBytes (secretOf nib L)).2 = byteAt nib (L + 1) := by
  simp [checksumCorrect]

/-- Settles O28, by the equation of U.CHECK for each of the rule's three outcomes. -/
theorem checkFollowsTheRule : Obligations.CheckFollowsTheRule := by
  intro s hp
  simp only [← legalCount_iff]
  have hexec := execUCheck_of_phase hp
  refine ⟨fun hl => exec_uCheck_of_illegal hp (Bool.eq_false_iff.mpr hl), fun hl =>
    ⟨getLsbD_zero_of_legalCount s.n hl, ?_, ?_⟩⟩
  · intro hne
    have hc : checksumCorrect s.nib (s.n.toNat / 2 - 2) = false := by
      rw [← Bool.not_eq_true, checksumCorrect_iff_bytes]
      exact not_and_or.mpr hne
    exact hexec.trans (congrArg _ (State.checkCall_of_incorrect hl hc))
  · intro heq
    have hc := (checksumCorrect_iff_bytes s.nib (s.n.toNat / 2 - 2)).mpr heq
    exact hexec.trans (congrArg _ (State.checkCall_of_correct hl hc))

/-! ## The comparison as one of numbers (R111) -/

theorem eq_byte_append_iff (f : Word16) (hi lo : Byte) :
    f = hi ++ lo ↔ f.extractLsb' 0 8 = lo ∧ f.extractLsb' 8 8 = hi := by
  constructor
  · rintro rfl
    exact ⟨BitVec.extractLsb'_append_eq_right, BitVec.extractLsb'_append_eq_left⟩
  · rintro ⟨rfl, rfl⟩
    rw [BitVec.extractLsb'_append_extractLsb'_eq_extractLsb' (by rfl), BitVec.extractLsb'_eq_self]

theorem checksumCorrect_iff_number (nib : Vector Nibble 36) (L : Nat) :
    checksumCorrect nib L = true ↔ crcFinal (secretOf nib L) = byteAt nib (L + 1) ++ byteAt nib L :=
  (checksumCorrect_iff_bytes nib L).trans (eq_byte_append_iff _ _ _).symm

theorem State.checkCall_ph_eq_pad_iff {s : State} (hl : legalCount s.n = true) :
    s.checkCall.ph = Phase.pad ↔ checksumCorrect s.nib (s.n.toNat / 2 - 2) = true := by
  cases hc : checksumCorrect s.nib (s.n.toNat / 2 - 2) with
  | true => simp [State.checkCall_of_correct hl hc]
  | false => simp [State.checkCall_of_incorrect hl hc]

/-- Settles O35, by `checksumCorrect_iff_number`. -/
theorem checkPassesIffNumbersAgree : Obligations.CheckPassesIffNumbersAgree := by
  intro s t _ hl h
  obtain ⟨-, rfl⟩ := execUCheck_next h
  have hindex : s.n.toNat / 2 - 1 = s.n.toNat / 2 - 2 + 1 := by
    have := (legalCount_iff _).mp hl
    omega
  rw [State.checkCall_ph_eq_pad_iff hl, checksumCorrect_iff_number, hindex]

/-! ## A changed digit (R116) -/

theorem byteAt_set_other {i j : Nat} (hi : i < 36) (hj : j ≠ i / 2) (nib : Vector Nibble 36) (v : Nibble) :
    byteAt (nib.setIfInBounds i v) j = byteAt nib j := by
  rw [byteAt, nibAt_set _ _ _ _ hi, nibAt_set _ _ _ _ hi, if_neg (by omega), if_neg (by omega), byteAt]

/-- A byte shows both of its digits. -/
theorem nibAt_eq_of_byteAt_eq {nib nib' : Vector Nibble 36} {i : Nat}
    (h : byteAt nib (i / 2) = byteAt nib' (i / 2)) : nibAt nib i = nibAt nib' i := by
  rcases Nat.mod_two_eq_zero_or_one i with hi | hi
  · have := congrArg (BitVec.extractLsb' 4 4) h
    rwa [byteAt, byteAt, BitVec.extractLsb'_append_eq_left, BitVec.extractLsb'_append_eq_left,
      show 2 * (i / 2) = i by omega] at this
  · have := congrArg (BitVec.extractLsb' 0 4) h
    rwa [byteAt, byteAt, BitVec.extractLsb'_append_eq_right, BitVec.extractLsb'_append_eq_right,
      show 2 * (i / 2) + 1 = i by omega] at this

theorem byteAt_set_ne {i : Nat} (hi : i < 36) {nib : Vector Nibble 36} {v : Nibble} (hv : v ≠ nibAt nib i) :
    byteAt (nib.setIfInBounds i v) (i / 2) ≠ byteAt nib (i / 2) := by
  intro h
  have hdigit := nibAt_eq_of_byteAt_eq h
  rw [nibAt_set _ _ _ _ hi, if_pos rfl] at hdigit
  exact hv hdigit

theorem checksumCorrect_set_eq_false {nib : Vector Nibble 36} {L i : Nat} {v : Nibble} (hi : i < 36)
    (hL : i < 2 * L) (hc : checksumCorrect nib L = true) (hv : v ≠ nibAt nib i) :
    checksumCorrect (nib.setIfInBounds i v) L = false := by
  have hrun := crcRun_ne_of_one_byte (show i / 2 < L by omega) (byteAt_set_ne hi hv)
    fun j hj => byteAt_set_other hi hj nib v
  rw [checksumCorrect_iff_number] at hc
  rw [← Bool.not_eq_true, checksumCorrect_iff_number, byteAt_set_other hi (by omega),
    byteAt_set_other hi (by omega), ← hc]
  exact fun h => hrun ((BitVec.xor_left_inj _).mp h)

/-- Settles O36: the digits after the secret are the same and the running value is another. -/
theorem changedDigitIsDetected : Obligations.ChangedDigitIsDetected := by
  intro s i v hp hl hc hi hv
  have hn := (legalCount_iff _).mp hl
  have hbad := checksumCorrect_set_eq_false (by omega) (by omega) hc hv
  refine ⟨_, execUCheck_of_phase hp, ?_⟩
  rw [State.checkCall_of_incorrect (s := { s with nib := s.nib.setIfInBounds i v }) hl hbad]
  exact ⟨rfl, rfl⟩

/-! ## The statuses that a step writes (R172) -/

/-- The statuses that a step can write: every one but InvalidHex. -/
def StatusWritten (st : BitVec 3) : Prop :=
  st = Status.none ∨ st = Status.ok ∨ st = Status.invalidLength ∨ st = Status.checksumMismatch

@[simp] theorem State.takeChar_st (c : Byte) (s : State) : (s.takeChar c).st = s.st := by
  obtain ⟨n, nib, e, -⟩ := s.takeChar_writes_digits c
  rw [e]

theorem exec_token_st {s t : State} {w : TokenWord} (hr : s.ready = true)
    (h : exec (decodeToken w) s = .next t) : t.st = s.st ∨ t.st = Status.none := by
  rcases exec_token_cases hr h with ⟨-, rfl⟩ | ⟨c, -, rfl⟩ | ⟨-, rfl⟩ | ⟨-, rfl⟩
  · exact .inr rfl
  · rcases s.inCall_cases (State.takeChar c) with e | e <;> simp [e]
  · rcases s.inCall_cases fun s => s.goPhase Phase.check with e | e <;> simp [e]
  · exact .inl rfl

theorem State.checkCall_st (s : State) : s.checkCall.st = s.st ∨ StatusWritten s.checkCall.st := by
  rcases s.checkCall_cases with ⟨-, e⟩ | ⟨-, -, e⟩ | ⟨-, -, e⟩ <;> simp [e, errorCode, StatusWritten]

theorem State.hashBlock_st (s : State) : s.hashBlock.st = s.st ∨ StatusWritten s.hashBlock.st := by
  rcases s.hashBlock_cases with ⟨-, e⟩ | ⟨-, e⟩ <;> simp [e, StatusWritten]

theorem step_st {s t : State} (h : step s = .next t) : t.st = s.st ∨ StatusWritten t.st := by
  rcases step_cases h with ⟨-, rfl⟩ | ⟨-, hr, -, he⟩ | ⟨-, -, -, rfl⟩ | ⟨-, -, rfl⟩ | ⟨-, -, -, rfl⟩ |
    ⟨-, -, -, -, rfl⟩
  · exact .inr (.inl rfl)
  · exact (exec_token_st (s := s.popInput) hr he).imp_right .inl
  · exact .inl rfl
  · exact s.popInput.checkCall_st
  · exact .inl rfl
  · exact s.popInput.hashBlock_st

/-- Settles O29: the legal counts are even, and InvalidHex is none of the statuses that a step writes. -/
theorem invalidHexIsNeverProduced : Obligations.InvalidHexIsNeverProduced := by
  refine ⟨getLsbD_zero_of_legalCount, fun s t h hst => ?_⟩
  rcases step_st h with e | hw
  · exact e.symm.trans hst
  · simp [StatusWritten, hst] at hw

end Sys2Proof.Machine

/-! PROOFS. The frame of U.CHECK, U.PAD and U.HASH (O49). -/

namespace Sys2Proof.Machine

/-- Settles O49, by what each micro-operation can do. -/
theorem microOpFrame : Obligations.MicroOpFrame := by
  intro s t i hi h
  cases i with
  | uCheck =>
    obtain ⟨-, rfl⟩ := execUCheck_next h
    rcases s.checkCall_cases with ⟨-, e⟩ | ⟨-, -, e⟩ | ⟨-, -, e⟩ <;> simp [e]
  | uPad =>
    obtain ⟨-, -, rfl⟩ := execUPad_next h
    simp
  | uHash =>
    obtain ⟨-, -, -, rfl⟩ := execUHash_next h
    rcases s.hashBlock_cases with ⟨-, e⟩ | ⟨-, e⟩ <;> simp [e]
  | start => cases hi
  | char c => cases hi
  | endTok => cases hi
  | rsvd0 arg => cases hi
  | rsvd2 arg => cases hi
  | rsvd3 arg => cases hi

end Sys2Proof.Machine

/-! PROOFS. The padding formatter: the number of zero bytes, the layout of the Padded Message, and U.PAD for a
legal and for any other length (O37, O38, O39, O40, O41). -/

namespace Sys2Proof.Machine

/-! ## The number of zero bytes -/

theorem zeroCount_closed_form (L : Nat) : (zeroCount L : Int) = (13 - (L : Int)) % 16 := by
  rw [zeroCount]
  omega

theorem zeroCount_fills_block (L : Nat) : (L + 1 + zeroCount L + 2) % 16 = 0 := by
  rw [zeroCount]
  omega

theorem zeroCount_le_of_fills_block {L z : Nat} (h : (L + 1 + z + 2) % 16 = 0) : zeroCount L ≤ z := by
  rw [zeroCount]
  omega

/-- Settles O37: `zeroCount` fills the last block, and no smaller count does. -/
theorem zeroCountIsSmallest : Obligations.ZeroCountIsSmallest := fun L =>
  ⟨zeroCount_fills_block L, fun _ hz hfill => Nat.not_le.mpr hz (zeroCount_le_of_fills_block hfill),
    zeroCount_closed_form L⟩

theorem paddedLen_mod_sixteen (L : Nat) : paddedLen L % 16 = 0 := by
  have := zeroCount_fills_block L
  rw [paddedLen]
  omega

/-! ## The Padded Message, byte by byte (R122) -/

theorem pad_getElem?_secret {d : List Byte} {i : Nat} (h : i < d.length) : (pad d)[i]? = d[i]? := by
  rw [pad, List.append_assoc, List.append_assoc, List.getElem?_append_left h]

/-- After the secret come the marker, the zero bytes and the length field. -/
theorem pad_getElem?_length_add (d : List Byte) (k : Nat) :
    (pad d)[d.length + k]? =
      (padMarker :: (List.replicate (zeroCount d.length) 0x00#8 ++
        [(bitLen d.length).extractLsb' 8 8, (bitLen d.length).extractLsb' 0 8]))[k]? := by
  rw [pad, List.append_assoc, List.append_assoc, List.getElem?_append_right (Nat.le_add_right _ _),
    Nat.add_sub_cancel_left]
  rfl

theorem pad_getElem?_marker (d : List Byte) : (pad d)[d.length]? = some padMarker :=
  pad_getElem?_length_add d 0

theorem pad_getElem?_zero {d : List Byte} {i : Nat} (h : d.length + 1 ≤ i)
    (hz : i ≤ d.length + zeroCount d.length) : (pad d)[i]? = some 0x00#8 := by
  obtain ⟨k, rfl⟩ := Nat.exists_eq_add_of_le h
  have hk : k < zeroCount d.length := by omega
  rw [Nat.add_assoc, Nat.add_comm 1, pad_getElem?_length_add, List.getElem?_cons_succ,
    List.getElem?_append_left (by simpa using hk), List.getElem?_replicate_of_lt hk]

theorem pad_getElem?_bitLen_high (d : List Byte) :
    (pad d)[paddedLen d.length - 2]? = some ((bitLen d.length).extractLsb' 8 8) := by
  rw [show paddedLen d.length - 2 = d.length + (zeroCount d.length + 1) by rw [paddedLen]; omega,
    pad_getElem?_length_add]
  simp

theorem pad_getElem?_bitLen_low (d : List Byte) :
    (pad d)[paddedLen d.length - 1]? = some ((bitLen d.length).extractLsb' 0 8) := by
  rw [show paddedLen d.length - 1 = d.length + (zeroCount d.length + 1 + 1) by rw [paddedLen]; omega,
    pad_getElem?_length_add]
  simp

theorem pad_getElem?_outside {d : List Byte} {i : Nat} (h : paddedLen d.length ≤ i) : (pad d)[i]? = none :=
  List.getElem?_eq_none (by rwa [pad_length])

/-- The Padded Message and the zeros after it as one reading, at any offset. -/
theorem pad_getD (d : List Byte) (a : Nat) :
    (pad d).getD a 0x00#8 =
      if a < d.length then d.getD a 0x00#8
      else if a = d.length then 0x80#8
      else if a = paddedLen d.length - 2 then (bitLen d.length).extractLsb' 8 8
      else if a = paddedLen d.length - 1 then (bitLen d.length).extractLsb' 0 8
      else 0x00#8 := by
  rw [List.getD_eq_getElem?_getD, List.getD_eq_getElem?_getD]
  split_ifs with hsecret hmarker hhigh hlow
  · rw [pad_getElem?_secret hsecret]
  · rw [hmarker, pad_getElem?_marker, Option.getD_some]
  · rw [hhigh, pad_getElem?_bitLen_high, Option.getD_some]
  · rw [hlow, pad_getElem?_bitLen_low, Option.getD_some]
  · rcases Nat.lt_or_ge a (paddedLen d.length) with hin | hout
    · rw [paddedLen] at hhigh hlow hin
      rw [pad_getElem?_zero (by omega) (by omega), Option.getD_some]
    · rw [pad_getElem?_outside hout, Option.getD_none]

/-- A 16-bit field keeps the bit length modulo 65536 (R123). -/
theorem bitLen_eq_ofNat_mod (L : Nat) : bitLen L = BitVec.ofNat 16 ((8 * L) % 65536) :=
  BitVec.eq_of_toNat_eq (by simp [bitLen])

/-- Settles O38, by the content of each range of offsets. -/
theorem paddedMessageLayout : Obligations.PaddedMessageLayout := by
  intro d L P bitlen
  have hbits : bitLen d.length = bitlen := bitLen_eq_ofNat_mod _
  exact ⟨pad_length d, paddedLen_mod_sixteen _, fun _ => pad_getElem?_secret, pad_getElem?_marker d,
    fun _ => pad_getElem?_zero, hbits ▸ pad_getElem?_bitLen_high d, hbits ▸ pad_getElem?_bitLen_low d⟩

/-! ## The legal lengths (R124) -/

/-- The second block of a 16-byte secret does not depend on the secret. -/
theorem pad_of_sixteen_bytes {d : List Byte} (h : d.length = 16) :
    pad d = d ++ (0x80#8 :: List.replicate 14 0x00#8 ++ [0x80#8]) := by
  rw [pad, h, List.append_assoc, List.append_assoc]
  rfl

/-- Settles O39: the sizes by computation, the second block by `pad_of_sixteen_bytes`. -/
theorem paddedSizesOfLegalLengths : Obligations.PaddedSizesOfLegalLengths := by
  refine ⟨by decide, by decide, by decide, by decide, fun d h => ?_⟩
  rw [pad_of_sixteen_bytes h]
  exact ⟨List.take_left' h, List.drop_left' h⟩

/-! ## U.PAD (R125) -/

theorem secretOf_getD {nib : Vector Nibble 36} {L a : Nat} (h : a < L) :
    (secretOf nib L).getD a 0x00#8 = byteAt nib a := by
  rw [← List.getElem_eq_getD (h := by simpa using h), secretOf_getElem _ _ _ h]

/-- What `pm` holds at each offset after U.PAD. -/
theorem pmAt_padBuffer_secretOf (pm : Vector Byte 32) (nib : Vector Nibble 36) (L : Nat) {a : Nat}
    (ha : a < 32) :
    pmAt (padBuffer pm (secretOf nib L)) a =
      if a < L then byteAt nib a
      else if a = L then 0x80#8
      else if a = paddedLen L - 2 then (bitLen L).extractLsb' 8 8
      else if a = paddedLen L - 1 then (bitLen L).extractLsb' 0 8
      else 0x00#8 := by
  rw [pmAt_padBuffer _ _ _ ha, pad_getD, secretOf_length]
  exact ite_congr rfl secretOf_getD fun _ => rfl

/-- Settles O40: the next state is `padMessage`, and `pmAt_padBuffer_secretOf` reads its `pm`. -/
theorem padWritesTheMessage : Obligations.PadWritesTheMessage := by
  intro s hp hL L z P bitlen
  have hP : P = paddedLen L := by
    have : z = zeroCount L := by rw [← Int.toNat_natCast (zeroCount L), zeroCount_closed_form]
    rw [paddedLen, ← this]
  rw [hP]
  exact ⟨s.padMessage, execUPad_of_legalLen hp ((legalLen_iff _).mpr hL), rfl,
    fun _ => pmAt_padBuffer_secretOf s.pm s.nib L⟩

theorem execUPad_of_illegalLen {s : State} (hp : s.ph = Phase.pad) (hl : legalLen s.L = false) :
    execUPad s = .refused .padIllegalLength := by
  simp [execUPad, controllerStep_of_phase hp, hl]

/-- Settles O41, by `execUPad_of_illegalLen`. -/
theorem padRefusesOtherLengths : Obligations.PadRefusesOtherLengths := by
  intro s hp hL
  rw [← legalLen_iff, Bool.not_eq_true] at hL
  exact execUPad_of_illegalLen hp hL

end Sys2Proof.Machine

/-! PROOFS. The AES-128 encryptor: its field, its S-box, and that each transformation of the rounds is one-to-one
(O42, O43, O44). -/

namespace Sys2Proof.Machine

/-! ## The field (R131) -/

theorem xtime_eq_xor (a : Byte) : xtime a = (a <<< 1) ^^^ (if a.getLsbD 7 then 0x1B#8 else 0x00#8) := by
  unfold xtime
  split
  · rfl
  · exact BitVec.xor_zero.symm

theorem xtime_xor (a b : Byte) : xtime (a ^^^ b) = xtime a ^^^ xtime b := by
  have hreduce : (if (a ^^^ b).getLsbD 7 then 0x1B#8 else 0x00#8) =
      (if a.getLsbD 7 then 0x1B#8 else 0x00#8) ^^^ (if b.getLsbD 7 then 0x1B#8 else 0x00#8) := by
    rw [BitVec.getLsbD_xor]
    cases a.getLsbD 7 <;> cases b.getLsbD 7 <;> rfl
  rw [xtime_eq_xor, xtime_eq_xor a, xtime_eq_xor b, BitVec.shiftLeft_xor_distrib, hreduce]
  ac_rfl

theorem xor_left_comm_byte (a b c : Byte) : a ^^^ (b ^^^ c) = b ^^^ (a ^^^ c) := by ac_rfl

@[simp] theorem mul_two (a : Byte) : mul a 0x02#8 = xtime a := BitVec.zero_xor

@[simp] theorem mul_three (a : Byte) : mul a 0x03#8 = a ^^^ xtime a :=
  congrArg (· ^^^ xtime a) BitVec.zero_xor

/-! ## The S-box (R132, R133) -/

/-- The affine part of the S-box formula. -/
def sboxAffine (b : Byte) : Byte :=
  b ^^^ b.rotateLeft 1 ^^^ b.rotateLeft 2 ^^^ b.rotateLeft 3 ^^^ b.rotateLeft 4 ^^^ 0x63#8

/-- The inverse of `sboxAffine`. -/
def sboxUnaffine (y : Byte) : Byte := y.rotateLeft 1 ^^^ y.rotateLeft 3 ^^^ y.rotateLeft 6 ^^^ 0x05#8

theorem sboxFormula_eq_sboxAffine_inv (x : Byte) : sboxFormula x = sboxAffine (inv x) := rfl

theorem sboxUnaffine_sboxAffine : ∀ b : Byte, sboxUnaffine (sboxAffine b) = b := by decide +kernel

/-- The 256 printed entries against the formula. -/
theorem romS_eq_sboxFormula : ∀ x : Byte, romS x = sboxFormula x := by decide +kernel

/-- The table holds the inverses too, so that they need not be computed again. -/
theorem inv_eq_sboxUnaffine_romS (x : Byte) : inv x = sboxUnaffine (romS x) := by
  rw [romS_eq_sboxFormula, sboxFormula_eq_sboxAffine_inv, sboxUnaffine_sboxAffine]

theorem inv_zero : inv 0x00#8 = 0x00#8 := by decide +kernel

theorem mul_inv_of_ne_zero : ∀ x : Byte, x ≠ 0x00#8 → mul x (inv x) = 0x01#8 := by
  simp only [inv_eq_sboxUnaffine_romS]
  decide +kernel

theorem inv_inv : ∀ x : Byte, inv (inv x) = x := by
  simp only [inv_eq_sboxUnaffine_romS]
  decide +kernel

theorem inv_sboxUnaffine_romS (x : Byte) : inv (sboxUnaffine (romS x)) = x := by
  rw [← inv_eq_sboxUnaffine_romS, inv_inv]

theorem romS_injective : Function.Injective romS :=
  Function.LeftInverse.injective (g := inv ∘ sboxUnaffine) inv_sboxUnaffine_romS

theorem romS_no_fixed_or_complemented : ∀ x : Byte, romS x ≠ x ∧ romS x ≠ ~~~ x := by decide +kernel

/-- Settles O42: table against formula by computation, the permutation by its inverse. -/
theorem sBoxTableIsTheFormula : Obligations.SBoxTableIsTheFormula :=
  ⟨⟨inv_zero, mul_inv_of_ne_zero⟩, romS_eq_sboxFormula, @romS_injective,
    romS_no_fixed_or_complemented, rfl, rfl, rfl, rfl⟩

/-! ## The columns of the state (R134) -/

/-- Column `c` of the flat state, row by row. -/
def column (t : Block) (c r : Fin 4) : Byte := stateAt t r c

theorem getElem_eq_column (t : Block) {i : Nat} (hi : i < 16) :
    t[i] = column t ⟨i / 4, by omega⟩ ⟨i % 4, by omega⟩ := by
  simp [column, stateAt, Nat.mod_add_div, hi]

theorem column_injective : Function.Injective column := by
  intro t t' h
  refine Vector.ext fun i hi => ?_
  rw [getElem_eq_column t hi, getElem_eq_column t' hi, h]

theorem column_ofFn (f : Nat → Nat → Byte) (c r : Fin 4) :
    column (Vector.ofFn fun i => f (i.val / 4) (i.val % 4)) c r = f c r := by
  have hlt : r.val + 4 * c.val < 16 := by omega
  have hcol : (r.val + 4 * c.val) / 4 = c := by omega
  have hrow : (r.val + 4 * c.val) % 4 = r := by omega
  simp [column, stateAt, hlt, hcol, hrow]

/-! ## ShiftRows (R139) -/

theorem column_shiftRows (t : Block) (c r : Fin 4) : column (shiftRows t) c r = column t (c + r) r :=
  column_ofFn (fun c r => stateAt t r ((c + r) % 4)) c r

theorem shiftRows_injective : Function.Injective shiftRows := by
  intro t t' h
  refine column_injective (funext₂ fun c r => ?_)
  rw [← sub_add_cancel c r, ← column_shiftRows, ← column_shiftRows, h]

/-! ## MixColumns (R140): four times is the identity -/

/-- `mixColumn` on a column given row by row. -/
def mixedColumn (a : Fin 4 → Byte) (r : Fin 4) : Byte := mixColumn (a 0) (a 1) (a 2) (a 3) r

/-- The XOR of the four bytes. -/
def columnSum (a : Fin 4 → Byte) : Byte := a 0 ^^^ a 1 ^^^ a 2 ^^^ a 3

/-- The four rows of R140 as one: as `3a = a ^ 2a`, only the doubled bytes differ from row to row. -/
theorem mixedColumn_apply (a : Fin 4 → Byte) (r : Fin 4) :
    mixedColumn a r = a r ^^^ columnSum a ^^^ xtime (a r ^^^ a (r + 1)) := by
  rw [xtime_xor]
  match r with
  | 0 | 1 | 2 | 3 => simp [mixedColumn, mixColumn, columnSum, BitVec.xor_assoc, BitVec.xor_comm, xor_left_comm_byte]

theorem mixedColumn_xor_next (a : Fin 4 → Byte) (r : Fin 4) :
    mixedColumn a r ^^^ mixedColumn a (r + 1) = a r ^^^ a (r + 1) ^^^ xtime (a r ^^^ a (r + 2)) := by
  have hnext : r + 1 + 1 = r + 2 := by omega
  rw [mixedColumn_apply, mixedColumn_apply, hnext, xtime_xor, xtime_xor, xtime_xor]
  simp [BitVec.xor_assoc, xor_left_comm_byte]

theorem columnSum_mixedColumn (a : Fin 4 → Byte) : columnSum (mixedColumn a) = columnSum a := by
  have htop : mixedColumn a 0 ^^^ mixedColumn a 1 = a 0 ^^^ a 1 ^^^ xtime (a 0 ^^^ a 2) :=
    mixedColumn_xor_next a 0
  have hbottom : mixedColumn a 2 ^^^ mixedColumn a 3 = a 2 ^^^ a 3 ^^^ xtime (a 0 ^^^ a 2) :=
    BitVec.xor_comm (a 2) (a 0) ▸ mixedColumn_xor_next a 2
  rw [columnSum, BitVec.xor_assoc (mixedColumn a 0 ^^^ mixedColumn a 1), htop, hbottom, columnSum]
  simp [BitVec.xor_assoc, xor_left_comm_byte]

/-- The square of R140's polynomial is `4x^2 + 5`. -/
theorem mixedColumn_mixedColumn (a : Fin 4 → Byte) (r : Fin 4) :
    mixedColumn (mixedColumn a) r = a r ^^^ xtime (xtime (a r ^^^ a (r + 2))) := by
  rw [mixedColumn_apply, mixedColumn_xor_next, columnSum_mixedColumn, mixedColumn_apply,
    xtime_xor (a r ^^^ a (r + 1))]
  simp [BitVec.xor_assoc]

/-- The square adds one value to two bytes, and adds it a second time when applied again. -/
theorem mixedColumn_four_times (a : Fin 4 → Byte) :
    mixedColumn (mixedColumn (mixedColumn (mixedColumn a))) = a := by
  funext r
  have hback : r + 2 + 2 = r := by omega
  have hdiff : mixedColumn (mixedColumn a) r ^^^ mixedColumn (mixedColumn a) (r + 2) = a r ^^^ a (r + 2) := by
    rw [mixedColumn_mixedColumn, mixedColumn_mixedColumn, hback, BitVec.xor_comm (a (r + 2)) (a r)]
    simp [BitVec.xor_assoc]
  rw [mixedColumn_mixedColumn, hdiff, mixedColumn_mixedColumn, xor_cancel_right]

theorem mixedColumn_injective : Function.Injective mixedColumn :=
  Function.LeftInverse.injective (g := fun a => mixedColumn (mixedColumn (mixedColumn a))) mixedColumn_four_times

theorem column_mixColumns (t : Block) (c : Fin 4) : column (mixColumns t) c = mixedColumn (column t c) :=
  funext fun r => column_ofFn
    (fun c r => mixColumn (stateAt t 0 c) (stateAt t 1 c) (stateAt t 2 c) (stateAt t 3 c) r) c r

theorem mixColumns_injective : Function.Injective mixColumns := by
  intro t t' h
  refine column_injective (funext fun c => mixedColumn_injective ?_)
  rw [← column_mixColumns, ← column_mixColumns, h]

/-! ## AddRoundKey and SubBytes (R137, R138) -/

theorem addRoundKey_injective (rk : Block) : Function.Injective (addRoundKey · rk) := by
  intro t t' h
  refine Vector.ext fun i hi => (BitVec.xor_left_inj rk[i]).mp ?_
  rw [← xorBlock_getElem, ← xorBlock_getElem]
  exact congrArg (·[i]) h

theorem subBytes_getElem (t : Block) {i : Nat} (hi : i < 16) : (subBytes t)[i] = romS t[i] := by
  simp [subBytes]

theorem subBytes_injective : Function.Injective subBytes := by
  intro t t' h
  refine Vector.ext fun i hi => romS_injective ?_
  rw [← subBytes_getElem, ← subBytes_getElem]
  exact congrArg (·[i]) h

/-! ## The cipher (R141) -/

theorem middleRound_injective (ws : List KeyWord) (r : Nat) : Function.Injective (middleRound ws · r) :=
  (addRoundKey_injective _).comp (mixColumns_injective.comp (shiftRows_injective.comp subBytes_injective))

theorem lastRound_injective (ws : List KeyWord) : Function.Injective (lastRound ws) :=
  (addRoundKey_injective _).comp (shiftRows_injective.comp subBytes_injective)

theorem foldl_middleRound_injective (ws : List KeyWord) (rs : List Nat) :
    Function.Injective (rs.foldl (middleRound ws)) := by
  induction rs with
  | nil => exact fun _ _ h => h
  | cons r rs ih => exact ih.comp (middleRound_injective ws r)

theorem aes128Enc_injective (K : Block) : Function.Injective (aes128Enc K) := by
  intro X X' h
  exact addRoundKey_injective _ (foldl_middleRound_injective _ _ (lastRound_injective _ h))

/-- Settles O44: the cipher is a composition of one-to-one transformations. -/
theorem encryptionIsOneToOne : Obligations.EncryptionIsOneToOne := aes128Enc_injective

/-! ## The published examples (R131, R140, R141) -/

/-- Settles O43, by computation. -/
theorem encryptorGivesPublishedExamples : Obligations.EncryptorGivesPublishedExamples := 
  ⟨rfl, rfl, rfl, rfl, by decide +kernel, by decide +kernel⟩

end Sys2Proof.Machine

/-! PROOFS. The compression function, `derive`, and U.HASH with and without a block left (O45, O46, O47, O48). -/

namespace Sys2Proof.Machine

/-! ## The compression function and `derive` (R151, R155) -/

theorem compress_getElem (h m : Block) {i : Nat} (hi : i < 16) :
    (compress h m)[i] = (aes128Enc h m)[i] ^^^ m[i] :=
  xorBlock_getElem _ _ i hi

/-- Settles O45, by `compress_getElem`. -/
theorem compressionXorsTheMessageBlock : Obligations.CompressionXorsTheMessageBlock :=
  fun h m i => compress_getElem h m i.isLt

theorem blockOf_zero (p : List Byte) : blockOf p 0 = Vector.ofFn fun i => p.getD i.val 0x00#8 := by
  simp only [blockOf, Nat.mul_zero, Nat.zero_add]

/-- The first block of a sequence that goes on after sixteen bytes. -/
theorem blockOf_append_zero {d : List Byte} (h : d.length = 16) (r : List Byte) :
    blockOf (d ++ r) 0 = blockOf d 0 := by
  refine Vector.ext fun i hi => ?_
  rw [blockOf_getElem _ _ _ hi, blockOf_getElem _ _ _ hi, List.getD_append _ _ _ _ (by omega)]

/-- The blocks after sixteen bytes are those of the rest. -/
theorem blockOf_append_succ {d : List Byte} (h : d.length = 16) (r : List Byte) (j : Nat) :
    blockOf (d ++ r) (j + 1) = blockOf r j := by
  refine Vector.ext fun i hi => ?_
  have hplace : 16 * (j + 1) + i - d.length = 16 * j + i := by omega
  rw [blockOf_getElem _ _ _ hi, blockOf_getElem _ _ _ hi, List.getD_append_right _ _ _ _ (by omega), hplace]

theorem derive_of_one_block {d : List Byte} (h : paddedLen d.length = 16) :
    derive d = compress zeroBlock (blockOf (pad d) 0) := by
  rw [derive, pad_length, h, chain_succ, chain_zero]

theorem derive_of_two_blocks {d : List Byte} (h : paddedLen d.length = 32) :
    derive d = compress (compress zeroBlock (blockOf (pad d) 0)) (blockOf (pad d) 1) := by
  rw [derive, pad_length, h, chain_succ, chain_succ, chain_zero]

/-- Settles O46: the padded sizes of R124, and the second block that `pad_of_sixteen_bytes` gives. -/
theorem deriveUsesOneOrTwoBlocks : Obligations.DeriveUsesOneOrTwoBlocks := by
  refine fun d => ⟨fun h => ?_, fun h => ?_⟩
  · have hsize : paddedLen d.length = 16 := by rcases h with h | h | h <;> rw [h] <;> rfl
    rw [derive_of_one_block hsize, blockOf_zero]
  · rw [derive_of_two_blocks (by rw [h]; rfl), pad_of_sixteen_bytes h, blockOf_append_zero h,
      blockOf_append_succ h, blockOf_zero]
    rfl

/-! ## U.HASH (R154) -/

/-- Settles O47: the next state is `hashBlock`, on the last block and before it. -/
theorem hashCompressesOneBlock : Obligations.HashCompressesOneBlock := by
  intro s hp hlt hb
  have hblk : (s.blk + 1#2).toNat = s.blk.toNat + 1 := by bv_omega
  have hlast : s.blk + 1#2 = s.nblk ↔ s.blk.toNat + 1 = s.nblk.toNat := by rw [← BitVec.toNat_inj, hblk]
  have hH (i : Fin 16) := compress_getElem s.H (memReadBlock s.pm (16 * s.blk.toNat)) i.isLt
  simp only [memReadBlock_getElem] at hH
  refine ⟨s.hashBlock, execUHash_of_block_left hp hlt (Nat.lt_succ_of_le hb), ?_⟩
  rcases s.hashBlock_cases with ⟨h, e⟩ | ⟨h, e⟩ <;> rw [e]
  · exact ⟨rfl, hblk, hH, fun _ => ⟨rfl, rfl⟩, fun hne => absurd (hlast.mp h) hne⟩
  · exact ⟨rfl, hblk, hH, fun heq => absurd (hlast.mpr heq) h, fun _ => ⟨rfl, hp⟩⟩

theorem execUHash_of_no_block_left {s : State} (hp : s.ph = Phase.hash)
    (h : s.nblk.toNat ≤ s.blk.toNat) : execUHash s = .refused .hashNoBlockLeft :=
  (controllerStep_of_phase hp).trans (if_pos h)

theorem execUHash_of_block_outside {s : State} (hp : s.ph = Phase.hash)
    (hlt : s.blk.toNat < s.nblk.toNat) (hb : 2 ≤ s.blk.toNat) :
    execUHash s = .refused .hashBlockOutsideBuffer := by
  have hleft : ¬ s.nblk ≤ s.blk := Nat.not_le.mpr hlt
  exact (controllerStep_of_phase hp).trans ((if_neg hleft).trans (if_pos hb))

/-- Settles O48, by the two refusals of U.HASH. -/
theorem hashRefusesWithoutABlock : Obligations.HashRefusesWithoutABlock := fun _ hp =>
  ⟨execUHash_of_no_block_left hp,
    fun hb hn => execUHash_of_block_outside hp (by rw [hb, hn]; decide) (by rw [hb]; decide)⟩

end Sys2Proof.Machine

/-! PROOFS. The core computes `decode` (O60): what `decode` answers in terms of the digit buffer, the controller's
run from CHECK to DONE, and what the ports show there. -/

namespace Sys2Proof.Machine

/-! ## `decode` in terms of the digit buffer (R156) -/

section
variable {s : State} {str : List Byte} (h : s.Collected (digitsOf str))
include h

theorem State.Collected.byteOfDigits_eq {i : Nat} (hi : i < 18) :
    byteOfDigits (digitsOf str) i = byteAt s.nib i := by
  rw [byteOfDigits, byteAt, h.digits _ (by omega), h.digits _ (by omega)]

/-- A legal count is not saturated. -/
theorem State.Collected.length_of_legalCount (hl : legalCount s.n = true) :
    (digitsOf str).length = s.n.toNat := by
  have hcount := h.count
  have hn := (legalCount_iff _).mp hl
  omega

theorem State.Collected.installDecode_of_illegal (hl : legalCount s.n = false) :
    installDecode str = .invalidLength := by
  have hlen : (digitsOf str).length ∉ [16, 20, 28, 36] := by
    simpa [hl] using saturationLosesNothing (digitsOf str) s.n h.count
  exact if_pos hlen

theorem State.Collected.installDecode_of_legal (hl : legalCount s.n = true) :
    installDecode str =
      if checksumCorrect s.nib (s.n.toNat / 2 - 2) then .ok (derive (secretOf s.nib (s.n.toNat / 2 - 2)))
      else .checksumMismatch (byteAt s.nib (s.n.toNat / 2 - 2) ++ byteAt s.nib (s.n.toNat / 2 - 2 + 1))
        ((crcBytes (secretOf s.nib (s.n.toNat / 2 - 2))).1 ++
          (crcBytes (secretOf s.nib (s.n.toNat / 2 - 2))).2) := by
  have hn := (legalCount_iff _).mp hl
  have hmem : ¬ s.n.toNat ∉ [16, 20, 28, 36] := not_not.mpr (by simpa using hn)
  have heven : ¬ s.n.toNat % 2 = 1 := by omega
  have hsecret : (List.range (s.n.toNat / 2 - 2)).map (byteOfDigits (digitsOf str)) =
      secretOf s.nib (s.n.toNat / 2 - 2) :=
    List.map_congr_left fun i hi => h.byteOfDigits_eq (by rw [List.mem_range] at hi; omega)
  simp only [installDecode, h.length_of_legalCount hl, if_neg hmem, if_neg heven, hsecret,
    h.byteOfDigits_eq (show s.n.toNat / 2 - 2 < 18 by omega),
    h.byteOfDigits_eq (show s.n.toNat / 2 - 2 + 1 < 18 by omega)]
  by_cases hc : checksumCorrect s.nib (s.n.toNat / 2 - 2) = true
  · rw [if_pos hc, if_neg (not_not.mpr (Prod.ext_iff.mpr ((checksumCorrect_iff_bytes _ _).mp hc)))]
  · rw [if_neg hc, if_pos fun e => hc ((checksumCorrect_iff_bytes _ _).mpr (Prod.ext_iff.mp e))]

end

/-! ## The controller's run -/

/-- The controller takes the micro-operations `ops`, each selected by the phase, and `s` becomes `t`. -/
inductive ControllerRun : State → List Instr → State → Prop where
  | nil (s : State) : ControllerRun s [] s
  | cons {s u t : State} {i : Instr} {ops : List Instr} (hsel : decodeSelect s.ph = .ok i)
      (hexec : exec i s = .next u) (hrun : ControllerRun u ops t) : ControllerRun s (i :: ops) t

theorem ControllerRun.uCheck {s : State} (hp : s.ph = Phase.check) :
    ControllerRun s [.uCheck] s.checkCall :=
  .cons (hp ▸ rfl) (execUCheck_of_phase hp) (.nil _)

theorem State.popInput_of_nil {s : State} (hin : s.inputs = []) : s.popInput = s := by
  rw [State.popInput, hin, List.tail_nil, ← hin]

/-- While the host passes nothing, the step of a busy core is the micro-operation that the phase selects. -/
theorem fetch_and_step_of_select {s : State} {i : Instr} (hin : s.inputs = []) (hsel : decodeSelect s.ph = .ok i) :
    fetch s = .run i ∧ step s = exec i s := by
  have hf : fetch s = .run i := fetch_of_select (by rw [s.input_of_nil hin]; rfl) hsel
  exact ⟨hf, by rw [step_of_run hf, State.popInput_of_nil hin]⟩

theorem isToken_of_decodeSelect {p : PhaseWord} {i : Instr} (h : decodeSelect p = .ok i) :
    i.isToken = false := by
  rcases decodeSelect_ok h with ⟨-, rfl⟩ | ⟨-, rfl⟩ | ⟨-, rfl⟩ <;> rfl

theorem ControllerRun.frame {s t : State} {ops : List Instr} (h : ControllerRun s ops t) :
    t.n = s.n ∧ t.nib = s.nib ∧ t.perr = s.perr ∧ t.inputs = s.inputs := by
  induction h with
  | nil s => exact ⟨rfl, rfl, rfl, rfl⟩
  | cons hsel hexec _ ih =>
    obtain ⟨hn, hnib, hperr, hin⟩ := ih
    obtain ⟨hn', hnib', hperr', hin', -⟩ := microOpFrame _ _ _ (isToken_of_decodeSelect hsel) hexec
    exact ⟨hn.trans hn', hnib.trans hnib', hperr.trans hperr', hin.trans hin'⟩

theorem instrTrace_of_run {s u : State} {i : Instr} (hf : fetch s = .run i) (hstep : step s = .next u)
    (k : Nat) : instrTrace (k + 1) s = i :: instrTrace k u := by
  simp only [instrTrace, hstep, hf]

/-- While the host passes nothing, this is a run of the core, with `ops` as its trace. -/
theorem ControllerRun.core_run {s t : State} {ops : List Instr} (h : ControllerRun s ops t)
    (hin : s.inputs = []) :
    instrTrace ops.length s = ops ∧ Host.Core.run core ops.length s = .next t := by
  induction h with
  | nil s => exact ⟨rfl, rfl⟩
  | cons hsel hexec _ ih =>
    obtain ⟨hf, hstep⟩ := fetch_and_step_of_select hin hsel
    obtain ⟨-, -, -, hin', -⟩ := microOpFrame _ _ _ (isToken_of_decodeSelect hsel) hexec
    obtain ⟨htrace, hrun⟩ := ih (hin'.trans hin)
    rw [hexec] at hstep
    rw [List.length_cons, instrTrace_of_run hf hstep, htrace, run_of_next hstep]
    exact ⟨rfl, hrun⟩

theorem ControllerRun.inv {s t : State} {ops : List Instr} (h : ControllerRun s ops t) (hs : s.Inv) :
    t.Inv := by
  induction h with
  | nil s => exact hs
  | cons hsel hexec _ ih =>
    refine ih ?_
    rcases decodeSelect_ok hsel with ⟨hp, rfl⟩ | ⟨hp, rfl⟩ | ⟨hp, rfl⟩
    · obtain ⟨-, rfl⟩ := execUCheck_next hexec
      exact hs.checkCall hp
    · obtain ⟨-, -, rfl⟩ := execUPad_next hexec
      exact hs.padMessage hp
    · obtain ⟨-, hlt, hb, rfl⟩ := execUHash_next hexec
      exact hs.hashBlock hp hlt hb

/-- From HASH the controller takes one U.HASH for each block that is left, and ends the call with OK. -/
theorem State.Inv.hash_run {s : State} (hs : s.Inv) (hp : s.ph = Phase.hash) {k : Nat}
    (hk : s.blk.toNat + k = s.nblk.toNat) :
    ∃ t : State, ControllerRun s (List.replicate k .uHash) t ∧ t.ph = Phase.done ∧ t.st = Status.ok := by
  obtain ⟨hcount, hlt⟩ := hs.1.block_left hp
  induction k generalizing s with
  | zero => omega
  | succ k ih =>
    have hle : s.nblk.toNat ≤ 2 := by rcases hcount with e | e <;> simp [e]
    have hb : s.blk.toNat < 2 := Nat.lt_of_lt_of_le hlt hle
    have hblk : (s.blk + 1#2).toNat = s.blk.toNat + 1 := by bv_omega
    have hsel : decodeSelect s.ph = .ok .uHash := hp ▸ rfl
    have hexec := execUHash_of_block_left hp hlt hb
    have hinv := hs.hashBlock hp hlt hb
    rcases s.hashBlock_cases with ⟨hlast, e⟩ | ⟨hmore, e⟩ <;> rw [e] at hexec hinv
    · obtain rfl : k = 0 := by rw [← hlast, hblk] at hk; omega
      exact ⟨_, .cons hsel hexec (.nil _), rfl, rfl⟩
    · obtain ⟨hcount', hlt'⟩ := hinv.1.block_left hp
      obtain ⟨t, hrun, ht⟩ := ih hinv hp (by simp only [hblk]; omega) hcount' hlt'
      exact ⟨t, .cons hsel hexec hrun, ht⟩

/-! ## What the ports show in DONE -/

/-- The call is over and the ports read as the row of R157 for `r` says. -/
structure State.Shows (t : State) (r : CallResult) : Prop where
  ended : t.ph = Phase.done
  status : t.status = r.status
  key : t.key = r.key
  crcGiven : t.crcGiven = r.crcGiven
  crcCalc : t.crcCalc = r.crcCalc

theorem State.Inv.shows_ok {t : State} (h : t.Inv) (hp : t.ph = Phase.done) (hst : t.st = Status.ok) :
    t.Shows (.ok (derive (secretOf t.nib (t.n.toNat / 2 - 2)))) := by
  obtain ⟨hcg, hcc⟩ := h.1.diag_zero (by simp [hst])
  obtain ⟨-, hL, -⟩ := h.1.checked (.inr (.inr ⟨hp, hst⟩))
  refine ⟨hp, hst, ?_, hcg, hcc⟩
  rw [State.key_of_ok hst, h.1.key_derived hst, State.secret, hL]
  rfl

theorem State.Inv.shows_invalidLength {t : State} (h : t.Inv) (hp : t.ph = Phase.done)
    (hst : t.st = Status.invalidLength) : t.Shows .invalidLength := by
  obtain ⟨hcg, hcc⟩ := h.1.diag_zero (by simp [hst])
  exact ⟨hp, hst, State.key_of_not_ok (by simp [hst]), hcg, hcc⟩

theorem State.shows_checksumMismatch {t : State} (hp : t.ph = Phase.done)
    (hst : t.st = Status.checksumMismatch) : t.Shows (.checksumMismatch t.cg t.cc) :=
  ⟨hp, hst, State.key_of_not_ok (by simp [hst]), rfl, rfl⟩

/-! ## From CHECK to DONE -/

theorem controllerOps_of_ok {str : List Byte} {key : Block} (h : installDecode str = .ok key) :
    controllerOps str =
      .uCheck :: .uPad :: List.replicate (if (digitsOf str).length = 36 then 2 else 1) .uHash := by
  simp only [controllerOps, h]
  split_ifs <;> rfl

theorem controllerOps_of_invalidLength {str : List Byte} (h : installDecode str = .invalidLength) :
    controllerOps str = [.uCheck] := by
  rw [controllerOps, h]

theorem controllerOps_of_checksumMismatch {str : List Byte} {cg cc : Word16}
    (h : installDecode str = .checksumMismatch cg cc) : controllerOps str = [.uCheck] := by
  rw [controllerOps, h]

/-- The number of blocks for each legal count (R124). -/
theorem blocks_of_legalCount : ∀ n : BitVec 6, legalCount n = true →
    (BitVec.ofNat 2 (paddedLen (BitVec.ofNat 5 (n.toNat / 2 - 2)).toNat / 16)).toNat =
      if n.toNat = 36 then 2 else 1 := by decide

/-- After a correct checksum: U.CHECK, U.PAD and one U.HASH for each block lead to OK. -/
theorem State.Inv.correct_run {s : State} (hs : s.Inv) (hp : s.ph = Phase.check)
    (hl : legalCount s.n = true) (hc : checksumCorrect s.nib (s.n.toNat / 2 - 2) = true) :
    ∃ t : State,
      ControllerRun s (.uCheck :: .uPad :: List.replicate (if s.n.toNat = 36 then 2 else 1) .uHash) t ∧
      t.ph = Phase.done ∧ t.st = Status.ok := by
  have e := State.checkCall_of_correct hl hc
  have hph : s.checkCall.ph = Phase.pad := by rw [e]
  have hblocks : s.checkCall.padMessage.nblk.toNat = if s.n.toNat = 36 then 2 else 1 := by
    rw [State.padMessage_nblk, e]
    exact blocks_of_legalCount s.n hl
  have hchecked := hs.checkCall hp
  have hpad := execUPad_of_legalLen hph (hchecked.legalLen_of_passed (.inl hph))
  obtain ⟨t, hrun, ht⟩ := (hchecked.padMessage hph).hash_run rfl ((Nat.zero_add _).trans hblocks.symm)
  exact ⟨t, .cons (hp ▸ rfl) (execUCheck_of_phase hp) (.cons (hph ▸ rfl) hpad hrun), ht⟩

/-- From END's state the controller takes the steps of `controllerOps`, and the ports then show what `decode`
answers. -/
theorem State.Collected.controller_run {s : State} {str : List Byte} (h : s.Collected (digitsOf str))
    (hs : s.Inv) : ∃ t : State, ControllerRun (s.goPhase Phase.check) (controllerOps str) t ∧
      t.Shows (installDecode str) := by
  have hinv := hs.goCheck h.phase
  have honly := ControllerRun.uCheck (s.goPhase_ph Phase.check)
  have hends := honly.inv hinv
  cases hl : legalCount s.n with
  | false =>
    have hd := h.installDecode_of_illegal hl
    rw [controllerOps_of_invalidLength hd, hd]
    have e := State.checkCall_of_illegal (s := s.goPhase Phase.check) hl
    exact ⟨_, honly, hends.shows_invalidLength (by rw [e]) (by rw [e])⟩
  | true =>
    have hd := h.installDecode_of_legal hl
    cases hc : checksumCorrect s.nib (s.n.toNat / 2 - 2) with
    | false =>
      rw [hc, if_neg Bool.false_ne_true] at hd
      rw [controllerOps_of_checksumMismatch hd, hd]
      have e := State.checkCall_of_incorrect (s := s.goPhase Phase.check) hl hc
      rw [e] at honly
      exact ⟨_, honly, State.shows_checksumMismatch rfl rfl⟩
    | true =>
      rw [hc, if_pos rfl] at hd
      rw [controllerOps_of_ok hd, h.length_of_legalCount hl, hd]
      obtain ⟨t, hrun, hp, hst⟩ := hinv.correct_run rfl hl hc
      obtain ⟨hn, hnib, -, -⟩ := hrun.frame
      have hshows := (hrun.inv hinv).shows_ok hp hst
      rw [hn, hnib] at hshows
      exact ⟨t, hrun, hshows⟩

/-! ## The whole call (R157) -/

/-- Whatever came before, a run that begins with START meets the invariant from then on. -/
theorem inv_of_run_from_start {s t : State} {rest : List HostCycle} {k : Nat} (hy : s.ready = true)
    (hin : s.inputs = HostCycle.offer (tokenWord 0b00#2 0x00#8) :: rest)
    (hrun : Host.Core.run core (k + 1) s = .next t) : t.Inv := by
  rw [run_of_next (step_of_start hy hin)] at hrun
  exact run_induction everyStepKeepsInvariant s.popInput.beginCall_inv hrun

/-- In DONE the core waits for the host. -/
theorem step_of_done {t : State} (hp : t.ph = Phase.done) (hin : t.inputs = []) : step t = .next t := by
  have hi := t.input_of_nil hin
  have hf := fetch_of_no_token (by rw [hi]; rfl) (t.ready_iff.mpr (.inr (.inr hp))) (by rw [hi]; rfl)
  rw [step_of_wait hf, State.popInput_of_nil hin]

/-- Settles O60: the front end collects the digits, and `controller_run` leads from there to DONE. -/
theorem runComputesDecode : Obligations.RunComputesDecode := by
  intro s mid hy hmid hin r ops
  obtain ⟨v, hcollect, hvin, hv, hperr⟩ := run_start_collects hy hmid hin
  have hinv := inv_of_run_from_start hy hin hcollect
  have hend := (run_add hcollect 1).trans (run_of_next (step_of_end hv.phase hvin) 0)
  obtain ⟨t, hrun, hshows⟩ := hv.popInput.controller_run hinv.popInput
  obtain ⟨-, -, htperr, htin⟩ := hrun.frame
  have huin : (v.popInput.goPhase Phase.check).inputs = [] := congrArg List.tail hvin
  obtain ⟨htrace, hcore⟩ := hrun.core_run huin
  exact ⟨_, t, hend, rfl, htrace, hcore, hshows.ended, hshows.status, hshows.key, hshows.crcGiven,
    hshows.crcCalc, htperr.trans hperr, step_of_done hshows.ended (htin.trans huin)⟩

end Sys2Proof.Machine

/-! PROOFS. What raising an error writes, and that an error of U.CHECK leaves no partial result (O30, O31). -/

namespace Sys2Proof.Machine

theorem errorCode_ne_ok (e : ErrorClass) : errorCode e ≠ Status.ok := by
  cases e <;> simp [errorCode]

/-- No error class shows the key (R24, R174). -/
@[simp] theorem State.raiseError_key (s : State) (e : ErrorClass) : (s.raiseError e).key = zeroBlock :=
  State.key_of_not_ok (by simpa using errorCode_ne_ok e)

/-- Settles O30: the writes are those of `raiseError`, and no error code is OK. -/
theorem raisingAnErrorWrites : Obligations.RaisingAnErrorWrites := fun s =>
  ⟨rfl, rfl, fun _ _ => rfl, fun e i => by
    rw [State.raiseError_key]
    exact zeroBlock_getElem i.val i.isLt⟩

/-- The two error classes that U.CHECK raises (R109, R171, R173). -/
theorem errorCode_of_ne_invalidHex {e : ErrorClass} (he : e ≠ .invalidHex) :
    errorCode e = Status.invalidLength ∨ errorCode e = Status.checksumMismatch := by
  cases e with
  | invalidLength => exact .inl rfl
  | invalidHex => exact absurd rfl he
  | checksumMismatch cg cc => exact .inr rfl

/-- When U.CHECK ends the call, it has written `L` and `crc` at most, then raised one of its two errors. -/
theorem State.checkCall_raises_of_done {s : State} (h : s.checkCall.ph = Phase.done) :
    ∃ (L : BitVec 5) (crc : Word16) (e : ErrorClass), e ≠ .invalidHex ∧
      s.checkCall = State.raiseError { s with L := L, crc := crc } e := by
  rcases s.checkCall_cases with ⟨-, e⟩ | ⟨-, -, e⟩ | ⟨-, -, e⟩
  · exact ⟨s.L, s.crc, _, by simp, e⟩
  · exact ⟨_, _, _, by simp, e⟩
  · simp [e] at h

/-- Settles O31: in CHECK the invariant gives START's zeros, and U.CHECK's frame keeps them. -/
theorem errorLeavesNoPartialResult : Obligations.ErrorLeavesNoPartialResult := by
  intro s t hinv hexec hdone
  obtain ⟨hn, hnib, -, -, hframe, -, -⟩ := microOpFrame s t .uCheck rfl hexec
  obtain ⟨hpm, hH, hnblk, hblk⟩ := hframe rfl
  obtain ⟨hp, rfl⟩ := execUCheck_next hexec
  obtain ⟨hpm0, hnblk0, hblk0, hH0⟩ := hinv.2.before_pad (by simp [State.hashing, hp])
  obtain ⟨L, crc, e, he, hraise⟩ := State.checkCall_raises_of_done hdone
  have hkey : s.checkCall.key = zeroBlock := by rw [hraise, State.raiseError_key]
  have hst : s.checkCall.st = errorCode e := by rw [hraise, State.raiseError_st]
  exact ⟨hpm.trans hpm0, hH.trans hH0, hnblk.trans hnblk0, hblk.trans hblk0, hn, hnib, hkey,
    hst ▸ errorCode_of_ne_invalidHex he⟩

end Sys2Proof.Machine

/-! PROOFS. The reset event, and the number of steps from CHECK to DONE whatever the host offers meanwhile (O2, O59). -/

namespace Sys2Proof.Machine

/-- Settles O2: `rst` is fetched before anything else, and the reset event keeps the rest of the host's inputs. -/
theorem resetEventFromAnyState : Obligations.ResetEventFromAnyState :=
  fun _ hr => step_of_reset (fetch_of_reset hr)

/-! ## A micro-operation is blind to what the host will pass -/

theorem State.checkCall_withInputs (s : State) (ins : List HostCycle) :
    State.checkCall { s with inputs := ins } = { s.checkCall with inputs := ins } := by
  unfold State.checkCall State.compareChecksum
  dsimp only
  split_ifs <;> rfl

theorem State.hashBlock_withInputs (s : State) (ins : List HostCycle) :
    State.hashBlock { s with inputs := ins } = { s.hashBlock with inputs := ins } := by
  unfold State.hashBlock
  dsimp only
  split_ifs <;> rfl

theorem exec_withInputs_of_select {s t : State} {i : Instr} (hsel : decodeSelect s.ph = .ok i)
    (h : exec i s = .next t) (ins : List HostCycle) :
    exec i { s with inputs := ins } = .next { t with inputs := ins } := by
  rcases decodeSelect_ok hsel with ⟨hp, rfl⟩ | ⟨hp, rfl⟩ | ⟨hp, rfl⟩
  · obtain ⟨-, rfl⟩ := execUCheck_next h
    rw [← State.checkCall_withInputs]
    exact execUCheck_of_phase hp
  · obtain ⟨-, hl, rfl⟩ := execUPad_next h
    exact execUPad_of_legalLen hp hl
  · obtain ⟨-, hlt, hb, rfl⟩ := execUHash_next h
    rw [← State.hashBlock_withInputs]
    exact execUHash_of_block_left hp hlt hb

/-! ## The first time in DONE -/

/-- The run from `s` is in DONE for the first time after `k` steps, in the state `t`. -/
structure State.FirstDone (s : State) (k : Nat) (t : State) : Prop where
  run : Host.Core.run core k s = .next t
  ended : t.ph = Phase.done
  before : ∀ (j : Nat) (u : State), j < k → Host.Core.run core j s = .next u → u.ph ≠ Phase.done

theorem State.FirstDone.of_step {s u t : State} {k : Nat} (hp : s.ph ≠ Phase.done)
    (hstep : step s = .next u) (h : u.FirstDone k t) : s.FirstDone (k + 1) t where
  run := (run_of_next hstep k).trans h.run
  ended := h.ended
  before
    | 0, v, _, hv => by
      obtain rfl : s = v := by injection hv
      exact hp
    | j + 1, v, hj, hv => h.before j v (Nat.lt_of_succ_lt_succ hj) ((run_of_next hstep j).symm.trans hv)

theorem State.input_rst_of_no_reset {s : State} (h : ∀ c ∈ s.inputs, c.rst = false) :
    s.input.rst = false := by
  cases hin : s.inputs with
  | nil => rw [s.input_of_nil hin]; rfl
  | cons c rest => rw [s.input_of_cons c rest hin]; exact h c (by simp [hin])

theorem ne_done_of_decodeSelect {p : PhaseWord} {i : Instr} (h : decodeSelect p = .ok i) :
    p ≠ Phase.done := by
  rintro rfl
  cases h

/-- Unless reset comes, each step of a busy core is the selected micro-operation and uses up one of the host's
inputs (R65, R194): a controller's run that ends in DONE is a run of the core whatever else the host offers. -/
theorem ControllerRun.firstDone {s t : State} {ops : List Instr} (h : ControllerRun s ops t)
    (hdone : t.ph = Phase.done) {ins : List HostCycle} (hr : ∀ c ∈ ins, c.rst = false) :
    State.FirstDone { s with inputs := ins } ops.length { t with inputs := ins.drop ops.length } := by
  induction h generalizing ins with
  | nil s => exact ⟨rfl, hdone, fun _ _ hj => absurd hj (Nat.not_lt_zero _)⟩
  | @cons s u t i ops hsel hexec _ ih =>
    have hfetch : fetch { s with inputs := ins } = .run i :=
      fetch_of_select (State.input_rst_of_no_reset hr) hsel
    have hstep : step { s with inputs := ins } = .next { u with inputs := ins.tail } :=
      (step_of_run hfetch).trans (exec_withInputs_of_select hsel hexec ins.tail)
    have hrest := ih hdone fun c hc => hr c (List.mem_of_mem_tail hc)
    rw [List.drop_tail] at hrest
    exact hrest.of_step (ne_done_of_decodeSelect hsel) hstep

/-! ## From CHECK to DONE -/

theorem State.correct_of_checkCall_pad {s : State} (h : s.checkCall.ph = Phase.pad) :
    legalCount s.n = true ∧ checksumCorrect s.nib (s.n.toNat / 2 - 2) = true := by
  rcases s.checkCall_cases with ⟨-, e⟩ | ⟨-, -, e⟩ | ⟨hl, hc, -⟩
  · simp [e] at h
  · simp [e] at h
  · exact ⟨hl, secretLen_toNat hl ▸ hc⟩

/-- Settles O59: U.CHECK raises an error, or `correct_run` counts U.CHECK, U.PAD and one U.HASH for each block. -/
theorem controllerReachesDone : Obligations.ControllerReachesDone := by
  intro s hinv hp hr
  rcases s.checkCall_ph with hpad | hdone
  · obtain ⟨hl, hc⟩ := State.correct_of_checkCall_pad hpad
    obtain ⟨t, hrun, hdone, hok⟩ := hinv.correct_run hp hl hc
    have hfirst := hrun.firstDone hdone hr
    refine ⟨_, _, hfirst.run, hfirst.ended, hfirst.before, fun hne => absurd hok hne, fun _ hn => ?_,
      fun _ hn => ?_⟩
    · simp [show s.n.toNat ≠ 36 by omega]
    · simp [hn]
  · obtain ⟨L, crc, e, -, hraise⟩ := State.checkCall_raises_of_done hdone
    have hne : s.checkCall.st ≠ Status.ok := by
      rw [hraise, State.raiseError_st]
      exact errorCode_ne_ok e
    have hfirst := (ControllerRun.uCheck hp).firstDone hdone hr
    exact ⟨_, _, hfirst.run, hfirst.ended, hfirst.before, fun _ => rfl, fun hok => absurd hok hne,
      fun hok => absurd hok hne⟩

end Sys2Proof.Machine
